-- ==== Sys2Proof/Word.lean ====
section
/-! DEFINITION. The word types of the Retro-VM core (00_scope.md R7, R9): bit 0 is the least significant bit,
every value is unsigned (R10). -/

namespace Sys2Proof

/-- A byte: a memory cell, a general register, a timer (R16, R22, R38). -/
abbrev Byte := BitVec 8

/-- A 16-bit word: an instruction word, the program counter, the index register, a stack slot (R7, R55). -/
abbrev Word := BitVec 16

/-- A 4-bit slice of an instruction word (R9): a register index `x` or `y`, or the count `n` (R56). -/
abbrev Nibble := BitVec 4

/-- The 12-bit address field `nnn` (R56). -/
abbrev Addr := BitVec 12

end Sys2Proof
end

