-- ==== Sys2Proof/Syntax.lean ====
section
/-! DEFINITION. The instructions: one constructor per row of spec/opcode_table.json (30_encoding.md R59), in the
table's order, with the operands of R62. There are no pseudo-instructions (R69). -/

namespace Sys2Proof

/-- An instruction of the Retro-VM ISA. The operand types are exactly as wide as the fields of R56. -/
inductive Instr where
  /-- 00E0 CLS (R83). -/
  | cls
  /-- 00EE RET (R89). -/
  | ret
  /-- 1NNN JP addr (R90). -/
  | jp (nnn : Addr)
  /-- 2NNN CALL addr (R91). -/
  | call (nnn : Addr)
  /-- 3XNN SE Vx, byte (R92). -/
  | seByte (x : Nibble) (nn : Byte)
  /-- 4XNN SNE Vx, byte (R93). -/
  | sneByte (x : Nibble) (nn : Byte)
  /-- 5XY0 SE Vx, Vy (R94). -/
  | seReg (x y : Nibble)
  /-- 6XNN LD Vx, byte (R101). -/
  | ldByte (x : Nibble) (nn : Byte)
  /-- 7XNN ADD Vx, byte (R102). -/
  | addByte (x : Nibble) (nn : Byte)
  /-- 8XY0 LD Vx, Vy (R103). -/
  | ldReg (x y : Nibble)
  /-- 8XY1 OR Vx, Vy (R104). -/
  | orReg (x y : Nibble)
  /-- 8XY2 AND Vx, Vy (R105). -/
  | andReg (x y : Nibble)
  /-- 8XY3 XOR Vx, Vy (R106). -/
  | xorReg (x y : Nibble)
  /-- 8XY4 ADD Vx, Vy (R107). -/
  | addReg (x y : Nibble)
  /-- 8XY5 SUB Vx, Vy (R108). -/
  | subReg (x y : Nibble)
  /-- 8XY6 SHR Vx (R109). The field `y` is decoded and ignored (R62); the term keeps it, so that no bit of the word is
  lost (DESIGN CHOICE, log 12). -/
  | shr (x y : Nibble)
  /-- 8XY7 SUBN Vx, Vy (R110). -/
  | subn (x y : Nibble)
  /-- 8XYE SHL Vx (R111). The field `y` is decoded and ignored, as for `shr`. -/
  | shl (x y : Nibble)
  /-- 9XY0 SNE Vx, Vy (R95, C1). -/
  | sneReg (x y : Nibble)
  /-- ANNN LD I, addr (R115). -/
  | ldI (nnn : Addr)
  /-- BNNN JP V0, addr (R96). -/
  | jpV0 (nnn : Addr)
  /-- CXNN RND Vx, byte (R112). -/
  | rnd (x : Nibble) (nn : Byte)
  /-- DXYN DRW Vx, Vy, nibble (R84). -/
  | drw (x y n : Nibble)
  /-- EX9E SKP Vx (R123). -/
  | skp (x : Nibble)
  /-- EXA1 SKNP Vx (R124). -/
  | sknp (x : Nibble)
  /-- FX07 LD Vx, DT (R126). -/
  | ldVxDT (x : Nibble)
  /-- FX0A LD Vx, K (R127). -/
  | ldVxK (x : Nibble)
  /-- FX15 LD DT, Vx (R128). -/
  | ldDTVx (x : Nibble)
  /-- FX18 LD ST, Vx (R129). -/
  | ldSTVx (x : Nibble)
  /-- FX1E ADD I, Vx (R116). -/
  | addIVx (x : Nibble)
  /-- FX29 LD F, Vx (R117). -/
  | ldFVx (x : Nibble)
  /-- FX33 LD B, Vx (R118). -/
  | ldBVx (x : Nibble)
  /-- FX55 LD [I], Vx (R119). -/
  | ldMemVx (x : Nibble)
  /-- FX65 LD Vx, [I] (R120). -/
  | ldVxMem (x : Nibble)
  deriving DecidableEq, Repr

end Sys2Proof
end

