-- ==== Sys2Proof/WellFormed.lean ====
section
/-! DEFINITION. Well-formedness. An operand as 30_encoding.md R68 writes it is a number; it is well formed when it
fits its field (R56, R61). Every term of `Instr` is well formed, because its operand types are exactly as wide as the
fields; Laws/PerInstr.lean says so constructor by constructor. A program image is well formed when it fits memory from
0x200 on (R157). -/

namespace Sys2Proof

/-- An operand as a number, by its role (R61, R62, R68). -/
inductive Operand where
  | reg (k : Nat)     -- `Vx`, `Vy`: V0 to VF
  | byte (k : Nat)    -- `byte`: an 8-bit number
  | addr (k : Nat)    -- `addr`: a 12-bit number
  | nibble (k : Nat)  -- `nibble`: a 4-bit number
  deriving DecidableEq, Repr

/-- The operand fits its field (R56, R61). -/
def Operand.wellFormed : Operand → Bool
  | .reg k    => decide (k < 16)
  | .byte k   => decide (k < 256)
  | .addr k   => decide (k < 0x1000)
  | .nibble k => decide (k < 16)

/-- The operands of an instruction in the order of its mnemonic (R59, R62). The ignored `y` of the shifts is no operand. -/
def Instr.operands : Instr → List Operand
  | .cls => []
  | .ret => []
  | .jp nnn => [.addr nnn.toNat]
  | .call nnn => [.addr nnn.toNat]
  | .seByte x nn => [.reg x.toNat, .byte nn.toNat]
  | .sneByte x nn => [.reg x.toNat, .byte nn.toNat]
  | .seReg x y => [.reg x.toNat, .reg y.toNat]
  | .ldByte x nn => [.reg x.toNat, .byte nn.toNat]
  | .addByte x nn => [.reg x.toNat, .byte nn.toNat]
  | .ldReg x y => [.reg x.toNat, .reg y.toNat]
  | .orReg x y => [.reg x.toNat, .reg y.toNat]
  | .andReg x y => [.reg x.toNat, .reg y.toNat]
  | .xorReg x y => [.reg x.toNat, .reg y.toNat]
  | .addReg x y => [.reg x.toNat, .reg y.toNat]
  | .subReg x y => [.reg x.toNat, .reg y.toNat]
  | .shr x _ => [.reg x.toNat]
  | .subn x y => [.reg x.toNat, .reg y.toNat]
  | .shl x _ => [.reg x.toNat]
  | .sneReg x y => [.reg x.toNat, .reg y.toNat]
  | .ldI nnn => [.addr nnn.toNat]
  | .jpV0 nnn => [.reg 0, .addr nnn.toNat]
  | .rnd x nn => [.reg x.toNat, .byte nn.toNat]
  | .drw x y n => [.reg x.toNat, .reg y.toNat, .nibble n.toNat]
  | .skp x => [.reg x.toNat]
  | .sknp x => [.reg x.toNat]
  | .ldVxDT x => [.reg x.toNat]
  | .ldVxK x => [.reg x.toNat]
  | .ldDTVx x => [.reg x.toNat]
  | .ldSTVx x => [.reg x.toNat]
  | .addIVx x => [.reg x.toNat]
  | .ldFVx x => [.reg x.toNat]
  | .ldBVx x => [.reg x.toNat]
  | .ldMemVx x => [.reg x.toNat]
  | .ldVxMem x => [.reg x.toNat]

/-- Every operand of the instruction fits its field. -/
def Instr.wellFormed (i : Instr) : Bool :=
  i.operands.all Operand.wellFormed

/-- The image fits the space from 0x200 up to 0xFFF: at most 0xE00 = 3584 bytes (R7 MAX_PROGRAM, R157). -/
def imageFits (bytes : List Byte) : Bool :=
  decide (bytes.length ≤ 0xE00)

end Sys2Proof
end

