-- ==== Sys2Proof/Decode.lean ====
section
/-! DEFINITION. The Decoder (30_encoding.md): the fields of a word (R56), the classification by the top nibble and
then a secondary nibble or byte (R58), the encoder, and the opcode map of R59 as a table of its own.
The bit patterns of all instructions but 6XNN and 8XY4 are the spec's general knowledge (R59, K2; UNVERIFIED, log 9). -/

namespace Sys2Proof

/-! ### Fields (R56) -/

/-- `op` = w[15:12]. -/
def opField (w : Word) : Nibble := w.extractLsb' 12 4
/-- `x` = w[11:8]. -/
def xField (w : Word) : Nibble := w.extractLsb' 8 4
/-- `y` = w[7:4]. -/
def yField (w : Word) : Nibble := w.extractLsb' 4 4
/-- `n` = w[3:0]. -/
def nField (w : Word) : Nibble := w.extractLsb' 0 4
/-- `nn` = w[7:0]. -/
def nnField (w : Word) : Byte := w.extractLsb' 0 8
/-- `nnn` = w[11:0]. -/
def nnnField (w : Word) : Addr := w.extractLsb' 0 12

/-! ### Decoding -/

/-- Why bytes are no instruction. -/
inductive Reject where
  /-- The word matches no row of the opcode map (R63): the recoverable condition MalformedOpcode. -/
  | malformedOpcode (word : Word)
  /-- Fewer than two bytes: no word (R55). A step always fetches two bytes, so it never meets this (DESIGN CHOICE, log 23). -/
  | truncated (length : Nat)
  deriving DecidableEq, Repr

/-- Class 8: the low nibble selects (R58). -/
def decodeClass8 (w : Word) : Except Reject Instr :=
  let x := xField w
  let y := yField w
  match (nField w).toNat with
  | 0x0 => .ok (.ldReg x y)
  | 0x1 => .ok (.orReg x y)
  | 0x2 => .ok (.andReg x y)
  | 0x3 => .ok (.xorReg x y)
  | 0x4 => .ok (.addReg x y)
  | 0x5 => .ok (.subReg x y)
  | 0x6 => .ok (.shr x y)
  | 0x7 => .ok (.subn x y)
  | 0xE => .ok (.shl x y)
  | _   => .error (.malformedOpcode w)

/-- Class F: the low byte selects (R58). -/
def decodeClassF (w : Word) : Except Reject Instr :=
  let x := xField w
  let nn := nnField w
  if nn = 0x07 then .ok (.ldVxDT x)
  else if nn = 0x0A then .ok (.ldVxK x)
  else if nn = 0x15 then .ok (.ldDTVx x)
  else if nn = 0x18 then .ok (.ldSTVx x)
  else if nn = 0x1E then .ok (.addIVx x)
  else if nn = 0x29 then .ok (.ldFVx x)
  else if nn = 0x33 then .ok (.ldBVx x)
  else if nn = 0x55 then .ok (.ldMemVx x)
  else if nn = 0x65 then .ok (.ldVxMem x)
  else .error (.malformedOpcode w)

/-- The instruction a word names (R57, R58, R59), or MalformedOpcode (R63, R64, R65). -/
def decodeWord (w : Word) : Except Reject Instr :=
  let x := xField w
  let y := yField w
  let n := nField w
  let nn := nnField w
  let nnn := nnnField w
  match (opField w).toNat with
  | 0x0 =>
    if w = 0x00E0 then .ok .cls
    else if w = 0x00EE then .ok .ret
    else .error (.malformedOpcode w)
  | 0x1 => .ok (.jp nnn)
  | 0x2 => .ok (.call nnn)
  | 0x3 => .ok (.seByte x nn)
  | 0x4 => .ok (.sneByte x nn)
  | 0x5 => if n = 0 then .ok (.seReg x y) else .error (.malformedOpcode w)
  | 0x6 => .ok (.ldByte x nn)
  | 0x7 => .ok (.addByte x nn)
  | 0x8 => decodeClass8 w
  | 0x9 => if n = 0 then .ok (.sneReg x y) else .error (.malformedOpcode w)
  | 0xA => .ok (.ldI nnn)
  | 0xB => .ok (.jpV0 nnn)
  | 0xC => .ok (.rnd x nn)
  | 0xD => .ok (.drw x y n)
  | 0xE =>
    if nn = 0x9E then .ok (.skp x)
    else if nn = 0xA1 then .ok (.sknp x)
    else .error (.malformedOpcode w)
  | 0xF => decodeClassF w
  | _ => .error (.malformedOpcode w)  -- never reached: a nibble is at most 0xF

/-- The big-endian word of two bytes, the first in bits 15:8 (R42). -/
def wordOfBytes (hi lo : Byte) : Word := hi ++ lo

/-- The byte at the lower address: bits 15:8 (R42). -/
def hiByte (w : Word) : Byte := w.extractLsb' 8 8
/-- The byte at the higher address: bits 7:0 (R42). -/
def loByte (w : Word) : Byte := w.extractLsb' 0 8

/-- Decode the first instruction of a byte sequence; every instruction takes two bytes (R55, R67). -/
def decodeBytes : List Byte → Except Reject (Instr × List Byte)
  | hi :: lo :: rest =>
    match decodeWord (wordOfBytes hi lo) with
    | .ok i => .ok (i, rest)
    | .error e => .error e
  | [_] => .error (.truncated 1)
  | [] => .error (.truncated 0)

/-- The word held by the low `nbits` bits of `w`, every bit above them 0. -/
def tableWord (nbits w : Nat) : Word := BitVec.ofNat 16 (w % 2 ^ nbits)

/-- The instruction the decoder reads from the bits `w` of an opcode-table row, laid out big-endian (R42). -/
def decodeTableWord (nbits w : Nat) : Option Instr :=
  match decodeBytes [hiByte (tableWord nbits w), loByte (tableWord nbits w)] with
  | .ok (i, _) => some i
  | .error _ => none

/-! ### Encoding -/

/-- The word `op x y n` (R56). -/
def wordXYN (op x y n : Nibble) : Word := op ++ x ++ y ++ n
/-- The word `op x nn` (R56). -/
def wordXNN (op x : Nibble) (nn : Byte) : Word := op ++ x ++ nn
/-- The word `op nnn` (R56). -/
def wordNNN (op : Nibble) (nnn : Addr) : Word := op ++ nnn

/-- The word of an instruction, from the pattern column of R59. -/
def encode : Instr → Word
  | .cls => 0x00E0
  | .ret => 0x00EE
  | .jp nnn => wordNNN 0x1 nnn
  | .call nnn => wordNNN 0x2 nnn
  | .seByte x nn => wordXNN 0x3 x nn
  | .sneByte x nn => wordXNN 0x4 x nn
  | .seReg x y => wordXYN 0x5 x y 0x0
  | .ldByte x nn => wordXNN 0x6 x nn
  | .addByte x nn => wordXNN 0x7 x nn
  | .ldReg x y => wordXYN 0x8 x y 0x0
  | .orReg x y => wordXYN 0x8 x y 0x1
  | .andReg x y => wordXYN 0x8 x y 0x2
  | .xorReg x y => wordXYN 0x8 x y 0x3
  | .addReg x y => wordXYN 0x8 x y 0x4
  | .subReg x y => wordXYN 0x8 x y 0x5
  | .shr x y => wordXYN 0x8 x y 0x6
  | .subn x y => wordXYN 0x8 x y 0x7
  | .shl x y => wordXYN 0x8 x y 0xE
  | .sneReg x y => wordXYN 0x9 x y 0x0
  | .ldI nnn => wordNNN 0xA nnn
  | .jpV0 nnn => wordNNN 0xB nnn
  | .rnd x nn => wordXNN 0xC x nn
  | .drw x y n => wordXYN 0xD x y n
  | .skp x => wordXNN 0xE x 0x9E
  | .sknp x => wordXNN 0xE x 0xA1
  | .ldVxDT x => wordXNN 0xF x 0x07
  | .ldVxK x => wordXNN 0xF x 0x0A
  | .ldDTVx x => wordXNN 0xF x 0x15
  | .ldSTVx x => wordXNN 0xF x 0x18
  | .addIVx x => wordXNN 0xF x 0x1E
  | .ldFVx x => wordXNN 0xF x 0x29
  | .ldBVx x => wordXNN 0xF x 0x33
  | .ldMemVx x => wordXNN 0xF x 0x55
  | .ldVxMem x => wordXNN 0xF x 0x65

/-! ### The opcode map of R59, as a table -/

/-- One row of R59: a word `w` is this row's instruction when `w &&& mask = pattern`. -/
structure Row where
  pattern  : Word
  mask     : Word
  mnemonic : String
  deriving DecidableEq, Repr

/-- The row of R59 an instruction belongs to, with the mnemonic of spec/opcode_table.json. -/
def opcodeRow : Instr → Row
  | .cls => ⟨0x00E0, 0xFFFF, "CLS"⟩
  | .ret => ⟨0x00EE, 0xFFFF, "RET"⟩
  | .jp _ => ⟨0x1000, 0xF000, "JP_addr"⟩
  | .call _ => ⟨0x2000, 0xF000, "CALL_addr"⟩
  | .seByte _ _ => ⟨0x3000, 0xF000, "SE_Vx__byte"⟩
  | .sneByte _ _ => ⟨0x4000, 0xF000, "SNE_Vx__byte"⟩
  | .seReg _ _ => ⟨0x5000, 0xF00F, "SE_Vx__Vy"⟩
  | .ldByte _ _ => ⟨0x6000, 0xF000, "LD_Vx__byte"⟩
  | .addByte _ _ => ⟨0x7000, 0xF000, "ADD_Vx__byte"⟩
  | .ldReg _ _ => ⟨0x8000, 0xF00F, "LD_Vx__Vy"⟩
  | .orReg _ _ => ⟨0x8001, 0xF00F, "OR_Vx__Vy"⟩
  | .andReg _ _ => ⟨0x8002, 0xF00F, "AND_Vx__Vy"⟩
  | .xorReg _ _ => ⟨0x8003, 0xF00F, "XOR_Vx__Vy"⟩
  | .addReg _ _ => ⟨0x8004, 0xF00F, "ADD_Vx__Vy"⟩
  | .subReg _ _ => ⟨0x8005, 0xF00F, "SUB_Vx__Vy"⟩
  | .shr _ _ => ⟨0x8006, 0xF00F, "SHR_Vx"⟩
  | .subn _ _ => ⟨0x8007, 0xF00F, "SUBN_Vx__Vy"⟩
  | .shl _ _ => ⟨0x800E, 0xF00F, "SHL_Vx"⟩
  | .sneReg _ _ => ⟨0x9000, 0xF00F, "SNE_Vx__Vy"⟩
  | .ldI _ => ⟨0xA000, 0xF000, "LD_I__addr"⟩
  | .jpV0 _ => ⟨0xB000, 0xF000, "JP_V0__addr"⟩
  | .rnd _ _ => ⟨0xC000, 0xF000, "RND_Vx__byte"⟩
  | .drw _ _ _ => ⟨0xD000, 0xF000, "DRW_Vx__Vy__nibble"⟩
  | .skp _ => ⟨0xE09E, 0xF0FF, "SKP_Vx"⟩
  | .sknp _ => ⟨0xE0A1, 0xF0FF, "SKNP_Vx"⟩
  | .ldVxDT _ => ⟨0xF007, 0xF0FF, "LD_Vx__DT"⟩
  | .ldVxK _ => ⟨0xF00A, 0xF0FF, "LD_Vx__K"⟩
  | .ldDTVx _ => ⟨0xF015, 0xF0FF, "LD_DT__Vx"⟩
  | .ldSTVx _ => ⟨0xF018, 0xF0FF, "LD_ST__Vx"⟩
  | .addIVx _ => ⟨0xF01E, 0xF0FF, "ADD_I__Vx"⟩
  | .ldFVx _ => ⟨0xF029, 0xF0FF, "LD_F__Vx"⟩
  | .ldBVx _ => ⟨0xF033, 0xF0FF, "LD_B__Vx"⟩
  | .ldMemVx _ => ⟨0xF055, 0xF0FF, "LD__I___Vx"⟩
  | .ldVxMem _ => ⟨0xF065, 0xF0FF, "LD_Vx___I"⟩

/-- The opcode map: the 34 rows of R59 in its order. -/
def opcodeMap : List Row :=
  [ opcodeRow .cls, opcodeRow .ret, opcodeRow (.jp 0), opcodeRow (.call 0), opcodeRow (.seByte 0 0),
    opcodeRow (.sneByte 0 0), opcodeRow (.seReg 0 0), opcodeRow (.ldByte 0 0), opcodeRow (.addByte 0 0),
    opcodeRow (.ldReg 0 0), opcodeRow (.orReg 0 0), opcodeRow (.andReg 0 0), opcodeRow (.xorReg 0 0),
    opcodeRow (.addReg 0 0), opcodeRow (.subReg 0 0), opcodeRow (.shr 0 0), opcodeRow (.subn 0 0),
    opcodeRow (.shl 0 0), opcodeRow (.sneReg 0 0), opcodeRow (.ldI 0), opcodeRow (.jpV0 0), opcodeRow (.rnd 0 0),
    opcodeRow (.drw 0 0 0), opcodeRow (.skp 0), opcodeRow (.sknp 0), opcodeRow (.ldVxDT 0), opcodeRow (.ldVxK 0),
    opcodeRow (.ldDTVx 0), opcodeRow (.ldSTVx 0), opcodeRow (.addIVx 0), opcodeRow (.ldFVx 0), opcodeRow (.ldBVx 0),
    opcodeRow (.ldMemVx 0), opcodeRow (.ldVxMem 0) ]

end Sys2Proof
end

