-- ==== Sys2Proof/Config.lean ====
section
/-! DEFINITION. What an implementation fixes and the spec leaves open: the named parameters of 00_scope.md R8 and
the randomness source. `State` carries a `Params`, so that a statement about every state holds for every value of the
parameters (DESIGN CHOICE, log 2); the random byte is a free value (log 3). -/

namespace Sys2Proof

/-- TIMER_COUPLING (R8, R76, R80, D11). -/
inductive TimerCoupling where
  | perStep       -- `PER_STEP`: the timers are decremented at the end of a step
  | externalTick  -- `EXTERNAL_TICK`: the timers are decremented only by the host's `tick()`
  deriving DecidableEq, Repr

/-- KEY_INDEX_POLICY (R8, R125, D8). -/
inductive KeyIndexPolicy where
  | fault      -- `FAULT`: a key index of 16 or more raises KeyIndexOutOfRange
  | lowNibble  -- `LOW_NIBBLE`: the key is the low nibble of the value
  deriving DecidableEq, Repr

/-- VF_ORDER (R8, R100, D5): which of the two writes of 8XY4 to 8XYE comes last. -/
inductive VfOrder where
  | flagThenResult  -- `FLAG_THEN_RESULT`: for x = 0xF, VF ends holding the arithmetic result
  | resultThenFlag  -- `RESULT_THEN_FLAG`: for x = 0xF, VF ends holding the flag
  deriving DecidableEq, Repr

/-- The 80 bytes of the parameter FONT, in address order from 0x050 (R8, R31, D16). -/
abbrev Font := Vector Byte 80

/-- The parameters of 00_scope.md R8 that are fixed for a core. -/
structure Params where
  timerCoupling  : TimerCoupling
  font           : Font
  keyIndexPolicy : KeyIndexPolicy
  vfOrder        : VfOrder
  deriving DecidableEq, Repr

/-- RANDOM (R8, R37, R112, D20): the byte the randomness source answers at the k-th draw. A FREE VALUE with no body:
nothing can be proved about which byte it is (log 3). -/
opaque Config.randomByte : Nat → Byte

end Sys2Proof
end

