-- ==== Sys2Proof/Machine/Defaults.lean ====
section
/-! DEFINITION. The default values of the open parameters (00_scope.md R8) and the default FONT (10_state.md R31).
They are the spec's defaults; a core may have others, and `State.params` says which (log 2, log 4 to log 7). -/

namespace Sys2Proof.Machine

/-- The default FONT: 16 glyphs of 5 bytes, glyph 0 first (R31, D16; general knowledge K4, PRESUMED, log 4). -/
def defaultFont : Font := #v[
  0xF0, 0x90, 0x90, 0x90, 0xF0,   0x20, 0x60, 0x20, 0x20, 0x70,
  0xF0, 0x10, 0xF0, 0x80, 0xF0,   0xF0, 0x10, 0xF0, 0x10, 0xF0,
  0x90, 0x90, 0xF0, 0x10, 0x10,   0xF0, 0x80, 0xF0, 0x10, 0xF0,
  0xF0, 0x80, 0xF0, 0x90, 0xF0,   0xF0, 0x10, 0x20, 0x40, 0x40,
  0xF0, 0x90, 0xF0, 0x90, 0xF0,   0xF0, 0x90, 0xF0, 0x10, 0xF0,
  0xF0, 0x90, 0xF0, 0x90, 0x90,   0xE0, 0x90, 0xE0, 0x90, 0xE0,
  0xF0, 0x80, 0x80, 0x80, 0xF0,   0xE0, 0x90, 0x90, 0x90, 0xE0,
  0xF0, 0x80, 0xF0, 0x80, 0xF0,   0xF0, 0x80, 0xF0, 0x80, 0x80 ]

/-- The defaults of R8: PER_STEP (D11, log 5), the default FONT (D16), FAULT (D8, log 6), FLAG_THEN_RESULT (D5, log 7). -/
def defaultParams : Params where
  timerCoupling := .perStep
  font := defaultFont
  keyIndexPolicy := .fault
  vfOrder := .flagThenResult

end Sys2Proof.Machine
end

