-- ==== Sys2Proof/Machine/State.lean ====
section
/-! DEFINITION. The state of the core (10_state.md R15), the fatal faults (R28, R132) and the state after reset (R33). -/

namespace Sys2Proof.Machine

/-- The fatal faults of 60_exceptions.md R132, each with the pc of the faulting instruction and its 16-bit word. One is
recorded in `State.halt` by the step that meets it, and `step` answers it as `Host.Outcome.fault` at every later step,
while the core is stopped (R71, R138). No instruction's meaning answers a fault. -/
inductive Fault where
  /-- CALL (2NNN) with SP = 16 (R134). Raised by `execCall`, through `State.raiseFatal`. Safe: the spec's own stop. -/
  | stackOverflow (pc word : BitVec 16)
  /-- RET (00EE) with SP = 0 (R135). Raised by `execRet`. Safe: the spec's own stop. -/
  | stackUnderflow (pc word : BitVec 16)
  /-- EX9E or EXA1 with a key index of 16 or more under KEY_INDEX_POLICY = FAULT (R136). Raised by `execSkp` and
  `execSknp`. Safe: the spec's own stop (D8). -/
  | keyIndexOutOfRange (pc word : BitVec 16)
  deriving DecidableEq, Repr

/-- Reasons an instruction has no meaning. -/
inductive Refusal where
  /-- An instruction without a meaning, by its mnemonic. Only an arm of `exec` may say it, and none does: every
  instruction of the table has its meaning. Safe. -/
  | notModelled (mnemonic : String)
  deriving DecidableEq, Repr

/-- Memory as (address, byte) pairs in one canonical form (`Memory.wf`): addresses strictly rising and below 0x1000, no
entry equal to what an unlisted address reads as (`resetByte`). -/
abbrev Memory := List Host.Cell

/-- The pixel grid, `grid[c][r]`: column c in 0..63, row r in 0..31 (R25). -/
abbrev Grid := Vector (Vector Bool 32) 64

/-- The state of the core. The first twelve fields are the spec's, in the order of R15; the last two are the model's own
(log 2, log 3). -/
structure State where
  /-- `mem`: 4096 bytes (R30, R38). -/
  mem    : Memory
  /-- `V[0..15]`; `V[15]` is VF (R16, R19). -/
  V      : Vector Byte 16
  /-- `I`: 16 bits, value at most 0xFFF (R21). -/
  I      : Word
  /-- `pc`: 16 bits, value at most 0xFFF (R17). -/
  pc     : Word
  /-- `stack[0..15]`: saved return addresses (R24). -/
  stack  : Vector Word 16
  /-- `SP`: the number of entries held, 0..16 (R24). -/
  SP     : Fin 17
  /-- `DT`: the delay timer (R22). -/
  DT     : Byte
  /-- `ST`: the sound timer (R23). -/
  ST     : Byte
  /-- `grid[0..63][0..31]` (R25). -/
  grid   : Grid
  /-- `key[0..15]`: true is pressed (R27). -/
  key    : Vector Bool 16
  /-- `redraw` (R26). -/
  redraw : Bool
  /-- `halt`: none, or the fatal fault that stopped the core (R28). -/
  halt   : Option Fault
  /-- The MODEL's own: how many random bytes have been drawn; selects the free value of the next draw (R37, log 3). -/
  draws  : Nat
  /-- The MODEL's own: the parameters of R8, which no step and no host operation changes (log 2). -/
  params : Params
  deriving DecidableEq, Repr

/-- What an instruction's meaning and a step answer. -/
abbrev Result := Host.Outcome State Fault Refusal

/-- The core right after creation, which is a reset with every key released (R33, R153, R154, R156), with the default
parameters of R8. Nothing is listed in memory: an unlisted address reads as its reset contents (`resetByte`). -/
def State.reset : State where
  mem := []
  V := Vector.replicate 16 0
  I := 0
  pc := 0x200
  stack := Vector.replicate 16 0
  SP := 0
  DT := 0
  ST := 0
  grid := Vector.replicate 64 (Vector.replicate 32 false)
  key := Vector.replicate 16 false
  redraw := false
  halt := none
  draws := 0
  params := defaultParams

end Sys2Proof.Machine
end

