-- ==== Sys2Proof/Machine/Memory.lean ====
section
/-! DEFINITION. The operations over the one address space (20_memory.md): 4096 bytes, every address taken mod 0x1000
(R41), byte accesses only (R43), no side effect, no protection, no fault (R46, R47, R49). -/

namespace Sys2Proof.Machine

/-- What an unlisted address reads as: the reset contents, FONT at 0x050..0x09F and 0 elsewhere (R30, R33; log 11). -/
def resetByte (font : Font) (a : Nat) : Byte :=
  if h : 0x050 ≤ a ∧ a < 0x0A0 then font[a - 0x050] else 0

/-- The byte at address `a`. -/
def Memory.read (font : Font) : Memory → Nat → Byte
  | [], a => resetByte font a
  | (k, b) :: rest, a => if k = a then b else Memory.read font rest a

/-- Memory with `v` at address `a`, in canonical form again. -/
def Memory.write (font : Font) : Memory → Nat → Byte → Memory
  | [], a, v => if v = resetByte font a then [] else [(a, v)]
  | (k, b) :: rest, a, v =>
    if a < k then (if v = resetByte font a then (k, b) :: rest else (a, v) :: (k, b) :: rest)
    else if a = k then (if v = resetByte font a then rest else (a, v) :: rest)
    else (k, b) :: Memory.write font rest a v

/-- The canonical form: addresses strictly rising, each below 0x1000, no entry equal to the reset contents. -/
abbrev Memory.wf (font : Font) (m : Memory) : Prop :=
  m.Pairwise (fun c d => c.1 < d.1) ∧ ∀ c ∈ m, c.1 < 0x1000 ∧ c.2 ≠ resetByte font c.1

/-- `MemRead(a, 1)`: the byte at `a mod 0x1000` (R11, R41). -/
def State.readByte (s : State) (a : Nat) : Byte :=
  Memory.read s.params.font s.mem (a % 0x1000)

/-- `MemWrite(a, 1, v)`: write `v` at `a mod 0x1000` (R11, R41, R46). -/
def State.writeByte (s : State) (a : Nat) (v : Byte) : State :=
  { s with mem := Memory.write s.params.font s.mem (a % 0x1000) v }

/-- Bytes written one by one at `a`, `a + 1`, … in ascending order (R43). -/
def State.storeBytes (s : State) (a : Nat) : List Byte → State
  | [] => s
  | v :: rest => State.storeBytes (s.writeByte a v) (a + 1) rest

end Sys2Proof.Machine
end

