-- ==== Sys2Proof/Machine/Grid.lean ====
section
/-! DEFINITION. The pixel grid (10_state.md R25) and drawing a sprite on it (41_display.md R84, R85). Columns are taken
mod 64 and rows mod 32, cell by cell: a sprite wraps at the edges and is not clipped (R84). -/

namespace Sys2Proof.Machine

/-- The cell at column `c mod 64`, row `r mod 32`. -/
def Grid.cell (g : Grid) (c r : Nat) : Bool :=
  (g[c % 64]'(Nat.mod_lt _ (by decide)))[r % 32]'(Nat.mod_lt _ (by decide))

/-- The grid with the cell at column `c mod 64`, row `r mod 32` toggled (XOR 1). -/
def Grid.flip (g : Grid) (c r : Nat) : Grid :=
  g.set (c % 64)
    ((g[c % 64]'(Nat.mod_lt _ (by decide))).set (r % 32) (!g.cell c r) (Nat.mod_lt _ (by decide)))
    (Nat.mod_lt _ (by decide))

/-- Every cell 0 (R83). -/
def Grid.clear : Grid := Vector.replicate 64 (Vector.replicate 32 false)

/-- Column `c` of a sprite row is bit `7 - c` of its byte (R85, D18; general knowledge K5, log 9). -/
def spriteBit (b : Byte) (c : Nat) : Bool := b.getLsbD (7 - c)

/-- XOR one set sprite bit onto the grid; the flag collects whether a set cell was turned off (R84). -/
def drawCell (acc : Grid × Bool) (c r : Nat) : Grid × Bool :=
  (acc.1.flip c r, acc.2 || acc.1.cell c r)

/-- One sprite row: columns 0..7 of byte `b` at column `cx`, grid row `r`. -/
def drawRow (acc : Grid × Bool) (b : Byte) (cx r : Nat) : Grid × Bool :=
  (List.range 8).foldl (fun acc c => if spriteBit b c then drawCell acc (cx + c) r else acc) acc

/-- The sprite rows `rows`, the first at grid row `cy`, each at column `cx`. -/
def drawRows (acc : Grid × Bool) (cx cy : Nat) : List Byte → Grid × Bool
  | [] => acc
  | b :: rest => drawRows (drawRow acc b cx cy) cx (cy + 1) rest

end Sys2Proof.Machine
end

