-- ==== Sys2Proof/Machine/Ops.lean ====
section
/-! DEFINITION. The named operations over registers, stack, timers and the halt record, and the common phases of a step
(40_cycle.md): fetch, the pc advance, the timer decrement, raising a fatal fault. -/

namespace Sys2Proof.Machine

/-! ### Registers -/

/-- `V[r]` (R16). -/
def State.getV (s : State) (r : Nibble) : Byte := s.V[r.toNat]'r.isLt

/-- `V[r] <- v` (R16). -/
def State.setV (s : State) (r : Nibble) (v : Byte) : State :=
  { s with V := s.V.set r.toNat v r.isLt }

/-- The register value of an address: `n mod 0x1000`, zero-extended to 16 bits (R17, R21, R61). -/
def addr12 (n : Nat) : Word := BitVec.ofNat 16 (n % 0x1000)

/-- `I <- n`, masked to 12 bits (R21). -/
def State.setI (s : State) (n : Nat) : State := { s with I := addr12 n }

/-- `pc <- n`, taken mod 0x1000 (R17, D1). -/
def State.setPc (s : State) (n : Nat) : State := { s with pc := addr12 n }

/-- `pc <- pc + k` (R75). -/
def State.advance (s : State) (k : Nat) : State := s.setPc (s.pc.toNat + k)

/-- A conditional skip: `pc <- pc + 4` if the condition holds, else `pc <- pc + 2` (R75, R97). -/
def State.skipIf (s : State) (cond : Bool) : State := s.advance (if cond then 4 else 2)

/-- `V[0..count-1]` loaded from memory at `base`, in ascending order; `count` is at most 16 (R120). -/
def State.loadRegs (s : State) (base : Nat) : Nat → State
  | 0 => s
  | k + 1 =>
    let t := State.loadRegs s base k
    t.setV (BitVec.ofNat 4 k) (t.readByte (base + k))

/-! ### The call stack (42_control_flow.md R87, R88) -/

/-- `push(a)`; none where the stack holds 16 entries, and nothing is written then (R87). -/
def State.push (s : State) (a : Word) : Option State :=
  if h : s.SP.val < 16 then
    some { s with stack := s.stack.set s.SP.val a h, SP := ⟨s.SP.val + 1, by omega⟩ }
  else none

/-- `pop()`: the most recent entry and the state without it; none where the stack is empty. The slot is not cleared (R88). -/
def State.pop (s : State) : Option (Word × State) :=
  if h : 0 < s.SP.val then
    some (s.stack[s.SP.val - 1]'(by omega), { s with SP := ⟨s.SP.val - 1, by omega⟩ })
  else none

/-! ### Fatal faults (40_cycle.md R79, 60_exceptions.md R131, R138) -/

/-- Taking a fatal fault: the step writes only `halt <- {kind, pc, word}`; pc still addresses the faulting instruction,
no handler is entered and nothing is saved elsewhere (R79, R131, R138). There is no return from it but `reset` (R140). -/
def State.raiseFatal (s : State) (kind : Word → Word → Fault) (word : Word) : State :=
  { s with halt := some (kind s.pc word) }

/-- The code of a fatal fault (R132). -/
def Fault.code : Fault → Nat
  | .stackOverflow _ _ => 3
  | .stackUnderflow _ _ => 4
  | .keyIndexOutOfRange _ _ => 5

/-- The pc a fatal fault records (R28). -/
def Fault.pc : Fault → Word
  | .stackOverflow pc _ => pc
  | .stackUnderflow pc _ => pc
  | .keyIndexOutOfRange pc _ => pc

/-- The instruction word a fatal fault records (R28). -/
def Fault.word : Fault → Word
  | .stackOverflow _ w => w
  | .stackUnderflow _ w => w
  | .keyIndexOutOfRange _ w => w

/-! ### Timers (40_cycle.md R76, R80) -/

/-- `if t != 0 then t - 1`, floor 0 (R76). -/
def countDown (t : Byte) : Byte := if t = 0 then 0 else t - 1

/-- Both timers decremented (R76). -/
def State.decrementTimers (s : State) : State :=
  { s with DT := countDown s.DT, ST := countDown s.ST }

/-- The end of a step whose execution left `s`: a fatal step does not decrement the timers, any other does under
TIMER_COUPLING = PER_STEP (R76, R77, R81). -/
def State.finishStep (s : State) : State :=
  match s.halt with
  | some _ => s
  | none =>
    match s.params.timerCoupling with
    | .perStep => s.decrementTimers
    | .externalTick => s

/-! ### Fetch and the unrecognized word (40_cycle.md R72, R78) -/

/-- The big-endian word at pc and pc + 1, each mod 0x1000 (R42, R72). -/
def State.fetchWord (s : State) : Word :=
  wordOfBytes (s.readByte s.pc.toNat) (s.readByte (s.pc.toNat + 1))

/-- An unrecognized word: `pc <- pc + 2` and nothing else but the end of the step (R63, R78). -/
def State.malformedStep (s : State) : State := (s.advance 2).finishStep

/-- The state a result leaves: the next state, or the state before, since a fault or a refusal writes nothing. -/
def resultState (s : State) : Result → State
  | .next t => t
  | .fault _ => s
  | .refused _ => s

/-- A result whose next state gets the end of the step (R76, R81). -/
def finishResult : Result → Result
  | .next t => .next t.finishStep
  | .fault f => .fault f
  | .refused r => .refused r

end Sys2Proof.Machine
end

