-- ==== Sys2Proof/Machine/Flags.lean ====
section
/-! DEFINITION. Every flag computation: VF as carry, not-borrow, the bit shifted out, index overflow and collision
(10_state.md R19, 43_alu.md R113), and the order of the flag and result writes (R100). There are no other flags (R20). -/

namespace Sys2Proof.Machine

/-- A flag as the byte VF holds: 1 or 0 (R107 to R111, R116, R84). -/
def flagByte (b : Bool) : Byte := if b then 1 else 0

/-- The carry of an add: the 9-bit sum exceeds 255 (R107). -/
def carryFlag (a b : Byte) : Bool := decide (a.toNat + b.toNat > 255)

/-- No borrow: minuend ≥ subtrahend, equality included (R108, R110, R113). -/
def noBorrowFlag (minuend subtrahend : Byte) : Bool := decide (minuend.toNat ≥ subtrahend.toNat)

/-- The bit a right shift by one shifts out: bit 0 (R109). -/
def lowBit (a : Byte) : Bool := a.getLsbD 0

/-- The bit a left shift by one shifts out: bit 7 (R111). -/
def highBit (a : Byte) : Bool := a.getLsbD 7

/-- The index sum passes 0xFFF (R116). -/
def indexOverflowFlag (i : Word) (v : Byte) : Bool := decide (i.toNat + v.toNat > 0xFFF)

/-- VF, register 15 (R19). -/
def vfIndex : Nibble := 0xF

/-- `VF <- flag`. -/
def State.setVF (s : State) (flag : Bool) : State := s.setV vfIndex (flagByte flag)

/-- The two writes of 8XY4 to 8XYE, in the order the parameter VF_ORDER fixes: they differ only for x = 0xF (R100, D5). -/
def State.setFlagAndResult (s : State) (x : Nibble) (flag : Bool) (result : Byte) : State :=
  match s.params.vfOrder with
  | .flagThenResult => (s.setVF flag).setV x result
  | .resultThenFlag => (s.setV x result).setVF flag

end Sys2Proof.Machine
end

