-- ==== Sys2Proof/Machine/Operands.lean ====
section
/-! DEFINITION. Operand forms beyond a register or an immediate: the key index (45_timers_input.md R125), the lowest
pressed key (R127), the random draw (43_alu.md R112), the glyph address (44_index_memory.md R117), the BCD digits (R118),
sprite rows and register blocks (R119, R121). Register operands are read from the state before any write (R100). -/

namespace Sys2Proof.Machine

/-- `key_index(v)`: v itself below 16; else KeyIndexOutOfRange (none) under FAULT, `v & 0xF` under LOW_NIBBLE (R125, D8). -/
def keyIndex (policy : KeyIndexPolicy) (v : Byte) : Option Nibble :=
  if v.toNat < 16 then some (v.extractLsb' 0 4)
  else
    match policy with
    | .fault => none
    | .lowNibble => some (v.extractLsb' 0 4)

/-- `key[k]` (R27). -/
def State.getKey (s : State) (k : Nibble) : Bool := s.key[k.toNat]'k.isLt

/-- `min { k | key[k] }`, none where no key is pressed (R127, D9). -/
def State.lowestPressed (s : State) : Option Nat := s.key.toList.findIdx? (fun pressed => pressed)

/-- `draw_random()`: the free byte of this draw, and the state with the draw counted (R112, R37; log 3). -/
def State.drawRandom (s : State) : Byte × State :=
  (Config.randomByte s.draws, { s with draws := s.draws + 1 })

/-- The address of the glyph for a register value: 0x050 + 5 * v, v not reduced (R117, D17, C7). -/
def glyphAddress (v : Byte) : Nat := 0x050 + 5 * v.toNat

/-- The BCD digits of a byte: hundreds, tens, ones (R118). -/
def bcdDigits (v : Byte) : List Byte :=
  [BitVec.ofNat 8 (v.toNat / 100), BitVec.ofNat 8 (v.toNat / 10 % 10), BitVec.ofNat 8 (v.toNat % 10)]

/-- V0 to Vx in order (R119). -/
def State.regBlock (s : State) (x : Nibble) : List Byte := s.V.toList.take (x.toNat + 1)

/-- The `n` sprite bytes at I, I + 1, … (R84, R121). -/
def State.spriteRows (s : State) (n : Nibble) : List Byte :=
  (List.range n.toNat).map (fun r => s.readByte (s.I.toNat + r))

end Sys2Proof.Machine
end

