-- ==== Sys2Proof/Machine/Alu.lean ====
section
/-! DEFINITION. Register and ALU instructions (43_alu.md). All values are 8-bit unsigned; every instruction advances pc
by 2 and raises nothing. -/

namespace Sys2Proof.Machine

/-- `V[x] <- v; pc <- pc + 2`: the end of every instruction that writes one register and no flag. -/
def State.writeReg (s : State) (x : Nibble) (v : Byte) : State := (s.setV x v).advance 2

/-- The two writes of R100, then `pc <- pc + 2`: the end of 8XY4 to 8XY7 and 8XYE. -/
def State.writeFlagged (s : State) (x : Nibble) (flag : Bool) (v : Byte) : State :=
  (s.setFlagAndResult x flag v).advance 2

/-- LD Vx, byte (R101). -/
def execLdByte (x : Nibble) (nn : Byte) (s : State) : Result :=
  .next (s.writeReg x nn)

/-- ADD Vx, byte (R102): mod 256, no flag. -/
def execAddByte (x : Nibble) (nn : Byte) (s : State) : Result :=
  .next (s.writeReg x (s.getV x + nn))

/-- LD Vx, Vy (R103). -/
def execLdReg (x y : Nibble) (s : State) : Result :=
  .next (s.writeReg x (s.getV y))

/-- OR Vx, Vy (R104): VF is not reset (D6). -/
def execOrReg (x y : Nibble) (s : State) : Result :=
  .next (s.writeReg x (s.getV x ||| s.getV y))

/-- AND Vx, Vy (R105): VF is not reset (D6). -/
def execAndReg (x y : Nibble) (s : State) : Result :=
  .next (s.writeReg x (s.getV x &&& s.getV y))

/-- XOR Vx, Vy (R106): VF is not reset (D6). -/
def execXorReg (x y : Nibble) (s : State) : Result :=
  .next (s.writeReg x (s.getV x ^^^ s.getV y))

/-- ADD Vx, Vy (R107): VF is the carry. -/
def execAddReg (x y : Nibble) (s : State) : Result :=
  .next (s.writeFlagged x (carryFlag (s.getV x) (s.getV y)) (s.getV x + s.getV y))

/-- SUB Vx, Vy (R108): Vx - Vy, VF is 1 where there is no borrow. -/
def execSubReg (x y : Nibble) (s : State) : Result :=
  .next (s.writeFlagged x (noBorrowFlag (s.getV x) (s.getV y)) (s.getV x - s.getV y))

/-- SHR Vx (R109): Vx is shifted, y is ignored (R62). -/
def execShr (x _y : Nibble) (s : State) : Result :=
  .next (s.writeFlagged x (lowBit (s.getV x)) (s.getV x >>> 1))

/-- SUBN Vx, Vy (R110): Vy - Vx. -/
def execSubn (x y : Nibble) (s : State) : Result :=
  .next (s.writeFlagged x (noBorrowFlag (s.getV y) (s.getV x)) (s.getV y - s.getV x))

/-- SHL Vx (R111): Vx is shifted, y is ignored (R62). -/
def execShl (x _y : Nibble) (s : State) : Result :=
  .next (s.writeFlagged x (highBit (s.getV x)) (s.getV x <<< 1))

/-- RND Vx, byte (R112): the draw is a free value (D20, log 3). -/
def execRnd (x : Nibble) (nn : Byte) (s : State) : Result :=
  let (draw, t) := s.drawRandom
  .next (t.writeReg x (draw &&& nn))

end Sys2Proof.Machine
end

