-- ==== Sys2Proof/Machine/Control.lean ====
section
/-! DEFINITION. Control flow and the call stack (42_control_flow.md). Every pc write is mod 0x1000 (R17). -/

namespace Sys2Proof.Machine

/-- RET (R89): pop, then pc = the popped address + 2; StackUnderflow on an empty stack, before any write (R88, R135). -/
def execRet (s : State) : Result :=
  match s.pop with
  | some (a, t) => .next (t.setPc (a.toNat + 2))
  | none => .next (s.raiseFatal .stackUnderflow (encode .ret))

/-- JP addr (R90). -/
def execJp (nnn : Addr) (s : State) : Result :=
  .next (s.setPc nnn.toNat)

/-- CALL addr (R91): push the CALL's own address, then jump; StackOverflow on a full stack, before any write (R87, R134). -/
def execCall (nnn : Addr) (s : State) : Result :=
  match s.push s.pc with
  | some t => .next (t.setPc nnn.toNat)
  | none => .next (s.raiseFatal .stackOverflow (encode (.call nnn)))

/-- SE Vx, byte (R92). -/
def execSeByte (x : Nibble) (nn : Byte) (s : State) : Result :=
  .next (s.skipIf (s.getV x == nn))

/-- SNE Vx, byte (R93). -/
def execSneByte (x : Nibble) (nn : Byte) (s : State) : Result :=
  .next (s.skipIf (s.getV x != nn))

/-- SE Vx, Vy (R94). -/
def execSeReg (x y : Nibble) (s : State) : Result :=
  .next (s.skipIf (s.getV x == s.getV y))

/-- SNE Vx, Vy (R95). -/
def execSneReg (x y : Nibble) (s : State) : Result :=
  .next (s.skipIf (s.getV x != s.getV y))

/-- JP V0, addr (R96): the register is V0, never Vx (C2, D1). -/
def execJpV0 (nnn : Addr) (s : State) : Result :=
  .next (s.setPc (nnn.toNat + (s.getV 0).toNat))

end Sys2Proof.Machine
end

