-- ==== Sys2Proof/Machine/Display.lean ====
section
/-! DEFINITION. The display instructions (41_display.md): CLS and DRW. -/

namespace Sys2Proof.Machine

/-- CLS (R83, R86): every cell 0, redraw set even on a clear grid. -/
def execCls (s : State) : Result :=
  .next ({ s with grid := Grid.clear, redraw := true }.advance 2)

/-- DRW Vx, Vy, nibble (R84, R85, R86): the coordinates and I are read first, VF is 0 unless a set cell is turned off,
redraw is set even for n = 0 (D19). -/
def execDrw (x y n : Nibble) (s : State) : Result :=
  let drawn := drawRows (s.grid, false) (s.getV x).toNat (s.getV y).toNat (s.spriteRows n)
  .next (({ s with grid := drawn.1, redraw := true }.setVF drawn.2).advance 2)

end Sys2Proof.Machine
end

