-- ==== Sys2Proof/Machine/IndexMemory.lean ====
section
/-! DEFINITION. Index register and memory instructions (44_index_memory.md). Every write to I is masked to 12 bits (R21),
every address is taken mod 0x1000 (R41); every instruction advances pc by 2 and raises nothing. -/

namespace Sys2Proof.Machine

/-- LD I, addr (R115). -/
def execLdI (nnn : Addr) (s : State) : Result :=
  .next ((s.setI nnn.toNat).advance 2)

/-- ADD I, Vx (R116): VF is 1 where the sum passes 0xFFF; the operand Vx is read before VF is written. -/
def execAddIVx (x : Nibble) (s : State) : Result :=
  let sum := s.I.toNat + (s.getV x).toNat
  .next (((s.setVF (indexOverflowFlag s.I (s.getV x))).setI sum).advance 2)

/-- LD F, Vx (R117). -/
def execLdFVx (x : Nibble) (s : State) : Result :=
  .next ((s.setI (glyphAddress (s.getV x))).advance 2)

/-- LD B, Vx (R118): hundreds, tens, ones at I, I + 1, I + 2; I unchanged. -/
def execLdBVx (x : Nibble) (s : State) : Result :=
  .next ((s.storeBytes s.I.toNat (bcdDigits (s.getV x))).advance 2)

/-- LD [I], Vx (R119): V0 to Vx at I, I + 1, …; I unchanged. -/
def execLdMemVx (x : Nibble) (s : State) : Result :=
  .next ((s.storeBytes s.I.toNat (s.regBlock x)).advance 2)

/-- LD Vx, [I] (R120): V0 to Vx from I, I + 1, …; I unchanged. -/
def execLdVxMem (x : Nibble) (s : State) : Result :=
  .next ((s.loadRegs s.I.toNat (x.toNat + 1)).advance 2)

end Sys2Proof.Machine
end

