-- ==== Sys2Proof/Machine/KeysTimers.lean ====
section
/-! DEFINITION. Key input and timer instructions (45_timers_input.md). The timer decrement of the step is no part of a
meaning: it ends the step (40_cycle.md R76, `State.finishStep`). -/

namespace Sys2Proof.Machine

/-- SKP Vx (R123): KeyIndexOutOfRange where the register selects no key under FAULT (R125, R136). -/
def execSkp (x : Nibble) (s : State) : Result :=
  match keyIndex s.params.keyIndexPolicy (s.getV x) with
  | some k => .next (s.skipIf (s.getKey k))
  | none => .next (s.raiseFatal .keyIndexOutOfRange (encode (.skp x)))

/-- SKNP Vx (R124): as SKP, the skip on a released key. -/
def execSknp (x : Nibble) (s : State) : Result :=
  match keyIndex s.params.keyIndexPolicy (s.getV x) with
  | some k => .next (s.skipIf (!s.getKey k))
  | none => .next (s.raiseFatal .keyIndexOutOfRange (encode (.sknp x)))

/-- LD Vx, DT (R126): DT before this step's own decrement. -/
def execLdVxDT (x : Nibble) (s : State) : Result :=
  .next ((s.setV x s.DT).advance 2)

/-- LD Vx, K (R127): no key pressed changes nothing (outcome Wait, pc unchanged); else the lowest pressed index (D9). -/
def execLdVxK (x : Nibble) (s : State) : Result :=
  match s.lowestPressed with
  | none => .next s
  | some k => .next ((s.setV x (BitVec.ofNat 8 k)).advance 2)

/-- LD DT, Vx (R128). -/
def execLdDTVx (x : Nibble) (s : State) : Result :=
  .next ({ s with DT := s.getV x }.advance 2)

/-- LD ST, Vx (R129). -/
def execLdSTVx (x : Nibble) (s : State) : Result :=
  .next ({ s with ST := s.getV x }.advance 2)

end Sys2Proof.Machine
end

