-- ==== Sys2Proof/Machine/Step.lean ====
section
/-! DEFINITION. One step (40_cycle.md R70, R81), and where the next instruction is fetched. -/

namespace Sys2Proof.Machine

/-- One fetch-decode-execute step (R81). A halted core reports its recorded fault and changes nothing (R71); an
unrecognized word advances pc by 2 (R78); any other word is executed and the step ends as R76 says. -/
def step (s : State) : Host.Outcome State Fault Refusal :=
  match s.halt with
  | some f => .fault f
  | none =>
    match decodeWord s.fetchWord with
    | .error _ => .next s.malformedStep
    | .ok i => finishResult (exec i s)

/-- `s` with the instruction of bits `w` stored where `step` fetches next: its two bytes at pc and pc + 1 (R42, R72), and
no halt record, since a halted core fetches nothing (R71; log 17, log 22). -/
def State.withFetchWord (s : State) (nbits w : Nat) : State :=
  { s.storeBytes s.pc.toNat [hiByte (tableWord nbits w), loByte (tableWord nbits w)] with halt := none }

end Sys2Proof.Machine
end

