-- ==== Sys2Proof/Machine/HostOps.lean ====
section
/-! DEFINITION. What the host may do to the core (60_exceptions.md R147): every operation as a function on State, with
what it reports. The host invokes them one after another, never during a step (R150); `step` alone takes no input. -/

namespace Sys2Proof.Machine

/-! ### What a step reports (40_cycle.md R77, 60_exceptions.md R132) -/

/-- The outcome a step reports to its caller. It is no state of the core (R15): `stepReport` computes it (log 18). -/
inductive StepReport where
  | ok                                 -- a recognized instruction completed
  | wait                               -- FX0A found no key pressed
  | malformedOpcode (pc word : Word)   -- the fetched word names no instruction
  | fatal (f : Fault)                  -- a fatal fault, raised now or recorded before
  deriving DecidableEq, Repr

/-- The code of a step outcome (R132, D14). -/
def StepReport.code : StepReport → Nat
  | .ok => 0
  | .wait => 1
  | .malformedOpcode _ _ => 2
  | .fatal f => f.code

/-- The instruction makes no progress: FX0A with no key pressed, and no other (R74, R127). -/
def waitsForKey (i : Instr) (s : State) : Bool :=
  match i with
  | .ldVxK _ => s.lowestPressed.isNone
  | _ => false

/-- The outcome of the next step at `s` (R77), the conditions in the order of R139. -/
def stepReport (s : State) : StepReport :=
  match s.halt with
  | some f => .fatal f
  | none =>
    match decodeWord s.fetchWord with
    | .error _ => .malformedOpcode s.pc s.fetchWord
    | .ok i =>
      match (resultState s (exec i s)).halt with
      | some f => .fatal f
      | none => if waitsForKey i s then .wait else .ok

/-! ### The operations -/

/-- `step()` (R81): the outcome reported, and the state after it. A halted core keeps its state (R71). -/
def hostStep (s : State) : StepReport × State :=
  (stepReport s, resultState s (step s))

/-- `tick()` exists (R80): only under EXTERNAL_TICK. -/
def State.hasTick (s : State) : Bool := s.params.timerCoupling == .externalTick

/-- `tick()` (R80): both decrements and nothing else; nothing while halted. -/
def State.tick (s : State) : State :=
  match s.halt with
  | some _ => s
  | none => s.decrementTimers

/-- `reset()` (R153, R155): the reset state, but the input latch keeps its value. The parameters are fixed for the core
and the randomness source is no part of it, so neither starts again (log 2, log 3). -/
def State.resetCore (s : State) : State :=
  { State.reset with key := s.key, draws := s.draws, params := s.params }

/-- What `loadProgram` reports (R132, R157). -/
inductive LoadReport where
  | ok
  | romTooLarge (length : Nat)
  deriving DecidableEq, Repr

/-- The code of a load outcome (R132). -/
def LoadReport.code : LoadReport → Nat
  | .ok => 0
  | .romTooLarge _ => 6

/-- `loadProgram(bytes)` (R157, R158): the bytes copied to 0x200 on and nothing else; RomTooLarge with no change (R137). -/
def State.loadProgram (s : State) (bytes : List Byte) : LoadReport × State :=
  if imageFits bytes then (.ok, s.storeBytes 0x200 bytes) else (.romTooLarge bytes.length, s)

/-- `setInput(keyStates)` (R148): the latch overwritten and nothing else. -/
def State.setInput (s : State) (keys : Vector Bool 16) : State := { s with key := keys }

/-- `pixelGrid()` (R149). -/
def State.pixelGrid (s : State) : Grid := s.grid

/-- `needsRedraw()` (R149). -/
def State.needsRedraw (s : State) : Bool := s.redraw

/-- `clearRedrawFlag()` (R149). -/
def State.clearRedrawFlag (s : State) : State := { s with redraw := false }

/-- The operations of R147. -/
inductive HostOp where
  | step
  | tick
  | reset
  | loadProgram (bytes : List Byte)
  | setInput (keys : Vector Bool 16)
  | pixelGrid
  | needsRedraw
  | clearRedrawFlag
  deriving DecidableEq, Repr

/-- What an operation answers (the result column of R147). -/
inductive HostReport where
  | step (r : StepReport)
  | done
  | absent                    -- `tick()` under PER_STEP: the operation does not exist (R80; log 15)
  | load (r : LoadReport)
  | grid (g : Grid)
  | redraw (b : Bool)
  deriving DecidableEq, Repr

/-- One host operation: its answer and the state after it (R147). -/
def perform (op : HostOp) (s : State) : HostReport × State :=
  match op with
  | .step => (.step (hostStep s).1, (hostStep s).2)
  | .tick => if s.hasTick then (.done, s.tick) else (.absent, s)
  | .reset => (.done, s.resetCore)
  | .loadProgram bytes => (.load (s.loadProgram bytes).1, (s.loadProgram bytes).2)
  | .setInput keys => (.done, s.setInput keys)
  | .pixelGrid => (.grid s.pixelGrid, s)
  | .needsRedraw => (.redraw s.needsRedraw, s)
  | .clearRedrawFlag => (.done, s.clearRedrawFlag)

/-- The host's operations one after another (R150, R159): the answers, and the state at the end. -/
def performAll : List HostOp → State → List HostReport × State
  | [], s => ([], s)
  | op :: rest, s =>
    let (answer, t) := perform op s
    let (answers, u) := performAll rest t
    (answer :: answers, u)

/-- A grid read that overlaps an operation from `before` to `after` sees each cell as it was before or as it is after,
never a third value: a race (R150, D21, U3; log 19). The model's own `pixelGrid` reads between operations only. -/
def TornGrid (before after seen : Grid) : Prop :=
  ∀ c r, seen.cell c r = before.cell c r ∨ seen.cell c r = after.cell c r

end Sys2Proof.Machine
end

