-- ==== Sys2Proof/Safety.lean ====
section
/-! DEFINITION. What statements are made in terms of: the invariant of the state (10_state.md R34), a running core, the
parts of the state with what it means that one is unchanged, and which parts an instruction may write (R35). -/

namespace Sys2Proof.Safety

open Sys2Proof.Machine

/-- A running core: no fatal fault is recorded (R28). A run is safe while its states are running. -/
abbrev Running (s : State) : Prop := s.halt = none

/-- A halt record holds a pc of the address space (R17, R28). -/
abbrev HaltInRange (h : Option Fault) : Prop :=
  ∀ f ∈ h, f.pc.toNat ≤ 0xFFF

/-- The invariant of R34 and R82, with the canonical form of memory: pc, I, the saved addresses and a recorded fault's pc
lie in 0..0xFFF. SP ≤ 16 and the widths of V, DT and ST hold by their types. -/
abbrev StateInv (s : State) : Prop :=
  s.pc.toNat ≤ 0xFFF ∧ s.I.toNat ≤ 0xFFF ∧ (∀ k : Fin 16, s.stack[k.val].toNat ≤ 0xFFF) ∧
  HaltInRange s.halt ∧ Memory.wf s.params.font s.mem

/-- The parts of the state (R15), and the two fields of the model's own. -/
inductive Part where
  | mem | V | I | pc | stack | SP | DT | ST | grid | key | redraw | halt | draws | params
  deriving DecidableEq, Repr

/-- The part reads the same in both states; memory through the read of a byte. -/
def Part.same (s t : State) : Part → Prop
  | .mem => ∀ a, t.readByte a = s.readByte a
  | .V => ∀ r, t.getV r = s.getV r
  | .I => t.I = s.I
  | .pc => t.pc = s.pc
  | .stack => t.stack = s.stack
  | .SP => t.SP = s.SP
  | .DT => t.DT = s.DT
  | .ST => t.ST = s.ST
  | .grid => t.grid = s.grid
  | .key => t.key = s.key
  | .redraw => t.redraw = s.redraw
  | .halt => t.halt = s.halt
  | .draws => t.draws = s.draws
  | .params => t.params = s.params

/-- Every part but those listed is unchanged from `s` to `t`. -/
def KeepsAllBut (changed : List Part) (s t : State) : Prop :=
  ∀ p, p ∉ changed → p.same s t

/-- `pc <- pc + k`, every pc write being mod 0x1000 (R17: the spec's own decision D1). -/
def PcPlus (k : Nat) (s t : State) : Prop := t.pc.toNat = (s.pc.toNat + k) % 0x1000

/-- From `s` to `t`, register x got the value `v` and pc + 2; every other register and every other part is unchanged. -/
def WroteReg (x : Nibble) (v : Byte) (s t : State) : Prop :=
  t.getV x = v ∧ (∀ r, r ≠ x → t.getV r = s.getV r) ∧ PcPlus 2 s t ∧ KeepsAllBut [.V, .pc] s t

/-- From `s` to `t`, register x got a result and VF a flag, and pc + 2. For x = 0xF, VF ends as VF_ORDER says (R100).
Every other register and every other part is unchanged. -/
def WroteFlagged (x : Nibble) (flag result : Nat) (s t : State) : Prop :=
  (x ≠ 0xF → (t.getV x).toNat = result ∧ (t.getV 0xF).toNat = flag) ∧
  (x = 0xF → s.params.vfOrder = .flagThenResult → (t.getV 0xF).toNat = result) ∧
  (x = 0xF → s.params.vfOrder = .resultThenFlag → (t.getV 0xF).toNat = flag) ∧
  (∀ r, r ≠ x → r ≠ 0xF → t.getV r = s.getV r) ∧ PcPlus 2 s t ∧ KeepsAllBut [.V, .pc] s t

/-- The address `a` is none of the `n` bytes from I on (addresses mod 0x1000, R41). -/
def OutsideFromI (s : State) (n a : Nat) : Prop := ∀ k < n, a % 0x1000 ≠ (s.I.toNat + k) % 0x1000

/-- The sprite of DRW Vx, Vy, n covers the cell (c, r) with a set bit: the cell lies `dc` columns and `dr` rows from the
sprite's corner, mod 64 and mod 32, `dc < 8`, `dr < n`, and bit 7 - dc of the byte at I + dr is 1 (R84, R85). -/
def SpriteCovers (s : State) (x y n : Nibble) (c r : Nat) : Prop :=
  ∃ dc < 8, ∃ dr < n.toNat, ((s.getV x).toNat + dc) % 64 = c ∧ ((s.getV y).toNat + dr) % 32 = r ∧
    (s.readByte (s.I.toNat + dr)).getLsbD (7 - dc) = true

/-- The step at `s` fetches the byte `v` from address `a` wherever it fetches `a` at all: as bits 15:8 of the word where
`a` is the address pc, as bits 7:0 where it is pc + 1 (addresses mod 0x1000, R41, R42). -/
def FetchesByte (a : Nat) (v : Byte) (s : State) : Prop :=
  (a % 0x1000 = s.pc.toNat % 0x1000 → hiByte s.fetchWord = v) ∧
  (a % 0x1000 = (s.pc.toNat + 1) % 0x1000 → loByte s.fetchWord = v)

/-- The two states agree in everything but the stack slots at and above SP (R24: those hold no value a program can
observe). -/
def SameBelowSP (s t : State) : Prop :=
  t = { s with stack := t.stack } ∧ ∀ k : Nat, (h : k < 16) → k < s.SP.val → t.stack[k] = s.stack[k]

/-- The parts an instruction may write: the W entries of R35 and "VF as flag", with pc, which every step writes; a fatal
fault of RET, CALL, SKP, SKNP writes halt (R79), and RND counts its draw (log 3). -/
def writes : Instr → List Part
  | .cls => [.pc, .grid, .redraw]
  | .ret => [.pc, .SP, .halt]
  | .jp _ => [.pc]
  | .call _ => [.pc, .stack, .SP, .halt]
  | .seByte _ _ => [.pc]
  | .sneByte _ _ => [.pc]
  | .seReg _ _ => [.pc]
  | .ldByte _ _ => [.pc, .V]
  | .addByte _ _ => [.pc, .V]
  | .ldReg _ _ => [.pc, .V]
  | .orReg _ _ => [.pc, .V]
  | .andReg _ _ => [.pc, .V]
  | .xorReg _ _ => [.pc, .V]
  | .addReg _ _ => [.pc, .V]
  | .subReg _ _ => [.pc, .V]
  | .shr _ _ => [.pc, .V]
  | .subn _ _ => [.pc, .V]
  | .shl _ _ => [.pc, .V]
  | .sneReg _ _ => [.pc]
  | .ldI _ => [.pc, .I]
  | .jpV0 _ => [.pc]
  | .rnd _ _ => [.pc, .V, .draws]
  | .drw _ _ _ => [.pc, .V, .grid, .redraw]
  | .skp _ => [.pc, .halt]
  | .sknp _ => [.pc, .halt]
  | .ldVxDT _ => [.pc, .V]
  | .ldVxK _ => [.pc, .V]
  | .ldDTVx _ => [.pc, .DT]
  | .ldSTVx _ => [.pc, .ST]
  | .addIVx _ => [.pc, .V, .I]
  | .ldFVx _ => [.pc, .I]
  | .ldBVx _ => [.pc, .mem]
  | .ldMemVx _ => [.pc, .mem]
  | .ldVxMem _ => [.pc, .V]

/-- The general registers an instruction may write: its destination x and VF where it is written as a flag (R19, R35). -/
def writesReg (r : Nibble) : Instr → Bool
  | .cls => false
  | .ret => false
  | .jp _ => false
  | .call _ => false
  | .seByte _ _ => false
  | .sneByte _ _ => false
  | .seReg _ _ => false
  | .ldByte x _ => r == x
  | .addByte x _ => r == x
  | .ldReg x _ => r == x
  | .orReg x _ => r == x
  | .andReg x _ => r == x
  | .xorReg x _ => r == x
  | .addReg x _ => r == x || r == 0xF
  | .subReg x _ => r == x || r == 0xF
  | .shr x _ => r == x || r == 0xF
  | .subn x _ => r == x || r == 0xF
  | .shl x _ => r == x || r == 0xF
  | .sneReg _ _ => false
  | .ldI _ => false
  | .jpV0 _ => false
  | .rnd x _ => r == x
  | .drw _ _ _ => r == 0xF
  | .skp _ => false
  | .sknp _ => false
  | .ldVxDT x => r == x
  | .ldVxK x => r == x
  | .ldDTVx _ => false
  | .ldSTVx _ => false
  | .addIVx _ => r == 0xF
  | .ldFVx _ => false
  | .ldBVx _ => false
  | .ldMemVx _ => false
  | .ldVxMem x => decide (r.toNat ≤ x.toNat)

/-- How many bytes an instruction stores from I on (R44): 3 for FX33, x + 1 for FX55, none otherwise. -/
def storedBytes : Instr → Nat
  | .cls => 0
  | .ret => 0
  | .jp _ => 0
  | .call _ => 0
  | .seByte _ _ => 0
  | .sneByte _ _ => 0
  | .seReg _ _ => 0
  | .ldByte _ _ => 0
  | .addByte _ _ => 0
  | .ldReg _ _ => 0
  | .orReg _ _ => 0
  | .andReg _ _ => 0
  | .xorReg _ _ => 0
  | .addReg _ _ => 0
  | .subReg _ _ => 0
  | .shr _ _ => 0
  | .subn _ _ => 0
  | .shl _ _ => 0
  | .sneReg _ _ => 0
  | .ldI _ => 0
  | .jpV0 _ => 0
  | .rnd _ _ => 0
  | .drw _ _ _ => 0
  | .skp _ => 0
  | .sknp _ => 0
  | .ldVxDT _ => 0
  | .ldVxK _ => 0
  | .ldDTVx _ => 0
  | .ldSTVx _ => 0
  | .addIVx _ => 0
  | .ldFVx _ => 0
  | .ldBVx _ => 3
  | .ldMemVx x => x.toNat + 1
  | .ldVxMem _ => 0

end Sys2Proof.Safety
end

