-- ==== Sys2Proof/Certificates/Slice0/Obligations.lean ====
section
/-! DEFINITION. The statements about this model, from the numbered rules of spec/. Where a statement says pc + 2 or
pc + 4 it means the write mod 0x1000 of 10_state.md R17, which is the spec's own decision D1 (log 8). A bit pattern other
than 6XNN and 8XY4 is the spec's general knowledge (K2, log 9). No statement rests on a parameter's default: a state
carries its parameters (log 2). -/

open Sys2Proof Sys2Proof.Machine Sys2Proof.Safety

/-! ### Encoding -/

/-- 30_encoding.md R59 and R62: the word of an instruction decodes to it, every operand at every value, the ignored
`y` of the shifts included (a field of the terms shr and shl by the model's choice, log 12); in a byte sequence the
two bytes are taken, high byte first, and the rest is left (R42, R55). Bit patterns other than 6XNN and 8XY4 are K2
(log 9). -/
def Obligations.DecodeOfEncode : Prop :=
  ∀ (i : Instr) (rest : List Byte), i.wellFormed = true →
    decodeWord (encode i) = .ok i ∧
    decodeBytes (hiByte (encode i) :: loByte (encode i) :: rest) = .ok (i, rest)

/-- 30_encoding.md R59: a word that decodes is the word of the instruction it decodes to, so no bit is dropped. That
no two words decode to one term is the model's choice for SHR and SHL (log 12, DESIGN CHOICE): their terms keep the
ignored field `y`, every value of which is the same instruction by R62; for every other word it is the fields of R62.
Bit patterns other than 6XNN and 8XY4 are K2 (log 9). -/
def Obligations.EncodeOfDecode : Prop :=
  ∀ (w : Word) (i : Instr), decodeWord w = .ok i → encode i = w

/-- Words written out from the patterns of R59, and words of the worked examples of R60, R84, R89 and R119. Bit
patterns other than 6XNN and 8XY4 are K2 (log 9). -/
def Obligations.SpecWordsDecode : Prop :=
  decodeWord 0x00E0 = .ok .cls ∧ decodeWord 0x00EE = .ok .ret ∧ decodeWord 0x1234 = .ok (.jp 0x234) ∧
  decodeWord 0x6005 = .ok (.ldByte 0x0 0x05) ∧ decodeWord 0x6103 = .ok (.ldByte 0x1 0x03) ∧
  decodeWord 0x8014 = .ok (.addReg 0x0 0x1) ∧ decodeWord 0xD015 = .ok (.drw 0x0 0x1 0x5) ∧
  decodeWord 0xE19E = .ok (.skp 0x1) ∧ decodeWord 0xF255 = .ok (.ldMemVx 0x2) ∧
  decodeWord 0x0000 = .error (.malformedOpcode 0x0000) ∧ decodeWord 0x5121 = .error (.malformedOpcode 0x5121)

/-- 30_encoding.md R56: the six fields of a word, in numbers, and how they overlap. -/
def Obligations.FieldsOfWord : Prop :=
  ∀ w : Word,
    (opField w).toNat = w.toNat / 0x1000 ∧ (xField w).toNat = w.toNat / 0x100 % 0x10 ∧
    (yField w).toNat = w.toNat / 0x10 % 0x10 ∧ (nField w).toNat = w.toNat % 0x10 ∧
    (nnField w).toNat = w.toNat % 0x100 ∧ (nnnField w).toNat = w.toNat % 0x1000 ∧
    nnField w = yField w ++ nField w ∧ nnnField w = xField w ++ nnField w

/-- 30_encoding.md R63 (with R64 and R65, the spec's decision D7): exactly these words are unrecognized, and each is
rejected as MalformedOpcode with the word itself. Bit patterns other than 6XNN and 8XY4 are K2 (log 9). -/
def Obligations.UnrecognizedWords : Prop :=
  ∀ w : Word,
    ((∃ e, decodeWord w = .error e) ↔
      (w.toNat < 0x1000 ∧ w ≠ 0x00E0 ∧ w ≠ 0x00EE) ∨
      ((w.toNat / 0x1000 = 0x5 ∨ w.toNat / 0x1000 = 0x9) ∧ w.toNat % 0x10 ≠ 0) ∨
      (w.toNat / 0x1000 = 0x8 ∧ w.toNat % 0x10 ∈ [0x8, 0x9, 0xA, 0xB, 0xC, 0xD, 0xF]) ∨
      (w.toNat / 0x1000 = 0xE ∧ w.toNat % 0x100 ∉ [0x9E, 0xA1]) ∨
      (w.toNat / 0x1000 = 0xF ∧ w.toNat % 0x100 ∉ [0x07, 0x0A, 0x15, 0x18, 0x1E, 0x29, 0x33, 0x55, 0x65])) ∧
    (∀ e, decodeWord w = .error e → e = .malformedOpcode w)

/-- 30_encoding.md R59: the opcode map has 34 rows, a word decodes to an instruction of a row exactly when `w & mask =
match`, and no word matches two rows. Bit patterns other than 6XNN and 8XY4 are K2 (log 9). -/
def Obligations.OpcodeMapDecides : Prop :=
  opcodeMap.length = 34 ∧
  (∀ (w : Word) (r : Row), r ∈ opcodeMap →
    (w &&& r.mask = r.pattern ↔ ∃ i, decodeWord w = .ok i ∧ opcodeRow i = r)) ∧
  (∀ (w : Word) (r q : Row), r ∈ opcodeMap → q ∈ opcodeMap →
    w &&& r.mask = r.pattern → w &&& q.mask = q.pattern → r = q)

/-! ### The step -/

/-- 40_cycle.md R81: where the core runs and the word at pc decodes, a step is the instruction's execution followed by
the end of the step (`State.finishStep`: the timers, R76). -/
def Obligations.StepRunsDecodedInstruction : Prop :=
  ∀ (s t : State) (i : Instr), s.halt = none → decodeWord s.fetchWord = .ok i → i.wellFormed = true →
    exec i s = .next t → step s = .next t.finishStep

/-- 20_memory.md R42: the byte at pc is bits 15:8 of the fetched word, the byte at pc + 1 bits 7:0, in every state. -/
def Obligations.FetchIsBigEndian : Prop :=
  ∀ s : State,
    s.fetchWord.toNat = 0x100 * (s.readByte s.pc.toNat).toNat + (s.readByte (s.pc.toNat + 1)).toNat ∧
    s.fetchWord.extractLsb' 8 8 = s.readByte s.pc.toNat ∧ s.fetchWord.extractLsb' 0 8 = s.readByte (s.pc.toNat + 1)

/-- 40_cycle.md R76 (the spec's decisions D10, D11, D12): the end of a step touches only the timers. Under PER_STEP
both count down by 1 to a floor of 0 unless the step raised a fatal fault; else they keep their values. That the fatal
step answers a next state is the model's choice (log 1). -/
def Obligations.EndOfStepCountsDown : Prop :=
  ∀ (s t u : State) (i : Instr), s.halt = none → decodeWord s.fetchWord = .ok i → exec i s = .next t → step s = .next u →
    KeepsAllBut [.DT, .ST] t u ∧
    (t.halt = none → s.params.timerCoupling = .perStep →
      u.DT.toNat = t.DT.toNat - 1 ∧ u.ST.toNat = t.ST.toNat - 1) ∧
    (t.halt ≠ none ∨ s.params.timerCoupling = .externalTick → u.DT = t.DT ∧ u.ST = t.ST)

/-- 40_cycle.md R78 and 60_exceptions.md R133 (D13): an unrecognized word is reported with its pc, pc advances by 2,
the timers end the step, nothing else changes, and the core goes on. The wrap mod 0x1000 is D1 (log 8). -/
def Obligations.MalformedWordAdvances : Prop :=
  ∀ (s : State) (e : Reject), s.halt = none → decodeWord s.fetchWord = .error e →
    ∃ t, step s = .next t ∧ PcPlus 2 s t ∧ KeepsAllBut [.pc, .DT, .ST] s t ∧
      (s.params.timerCoupling = .perStep → t.DT.toNat = s.DT.toNat - 1 ∧ t.ST.toNat = s.ST.toNat - 1) ∧
      (s.params.timerCoupling = .externalTick → t.DT = s.DT ∧ t.ST = s.ST) ∧
      stepReport s = .malformedOpcode s.pc s.fetchWord

/-- 40_cycle.md R71 (D12): a halted core reports its recorded fault at every step and keeps its whole state. That the
report is Lean's `fault` outcome is the model's choice (log 1). -/
def Obligations.HaltedCoreReportsItsFault : Prop :=
  ∀ (s : State) (f : Fault), s.halt = some f → step s = .fault f ∧ hostStep s = (.fatal f, s)

/-- 60_exceptions.md R140 and 10_state.md R28 (D12): no host operation but reset clears the halt record; reset does.
-/
def Obligations.OnlyResetClearsHalt : Prop :=
  ∀ (s : State) (f : Fault) (op : HostOp), s.halt = some f →
    (op ≠ .reset → (perform op s).2.halt = some f) ∧ (op = .reset → (perform op s).2.halt = none)

/-- 40_cycle.md R79 and 60_exceptions.md R138 (D12): a step that raises a fatal fault writes only the halt record: the
kind, the pc of the faulting instruction, which pc still addresses, and the fetched word; the timers keep their
values. That the fatal step answers a next state is the model's choice (log 1). -/
def Obligations.FatalStepWritesOnlyHalt : Prop :=
  ∀ (s t : State) (f : Fault), s.halt = none → step s = .next t → t.halt = some f →
    t = { s with halt := some f } ∧ f.pc = s.pc ∧ f.word = s.fetchWord

/-- 60_exceptions.md R139, 40_cycle.md R74: only CALL, RET, SKP and SKNP raise a fatal fault, each its own one, and
only under its own condition. The bit patterns are K2 (log 9). That the fatal step answers a next state is the model's
choice (log 1). -/
def Obligations.OnlyFourInstructionsFault : Prop :=
  ∀ (i : Instr) (s t : State) (f : Fault), s.halt = none → exec i s = .next t → t.halt = some f →
    (∃ nnn, i = .call nnn ∧ s.SP.val = 16 ∧ f = .stackOverflow s.pc (encode i)) ∨
    (i = .ret ∧ s.SP.val = 0 ∧ f = .stackUnderflow s.pc (encode i)) ∨
    (∃ x, (i = .skp x ∨ i = .sknp x) ∧ 16 ≤ (s.getV x).toNat ∧ s.params.keyIndexPolicy = .fault ∧
      f = .keyIndexOutOfRange s.pc (encode i))

/-- 40_cycle.md R74 and R77: every instruction has a next state in every state, and a core that is not halted steps to
a next state whatever word it fetches ("The engine never halts on unknown input", R63). Where CALL, RET, SKP or SKNP
raises a fatal fault, which R74 and R81 call the return Fatal, that the answer is a next state (with halt set) is the
model's choice (log 1, DESIGN CHOICE). -/
def Obligations.EveryInstructionRuns : Prop :=
  (∀ (i : Instr) (s : State), ∃ t, exec i s = .next t) ∧ (∀ s : State, s.halt = none → ∃ t, step s = .next t)

/-- 40_cycle.md R77, R81 and 60_exceptions.md R132, R147: when each outcome is reported, its code, and what state the
host's step() leaves: the next state of `step`, and the same state where the core is halted (R71). The codes are the
spec's decision D14 (log 8); that a fatal step is a next state of `step` and a halted one is not is the model's choice
(log 1), and so is that stepReport is a function (log 18). -/
def Obligations.StepReportsItsOutcome : Prop :=
  (∀ s : State,
    ((∃ f, stepReport s = .fatal f) ↔ (hostStep s).2.halt ≠ none) ∧
    (∀ f, stepReport s = .fatal f → (hostStep s).2.halt = some f) ∧
    (∀ p w, stepReport s = .malformedOpcode p w ↔
      s.halt = none ∧ (∃ e, decodeWord s.fetchWord = .error e) ∧ p = s.pc ∧ w = s.fetchWord) ∧
    (stepReport s = .wait ↔
      s.halt = none ∧ (∃ x, decodeWord s.fetchWord = .ok (.ldVxK x)) ∧ ∀ k, s.getKey k = false) ∧
    (stepReport s = .wait → KeepsAllBut [.DT, .ST] s (hostStep s).2) ∧
    (∀ t, step s = .next t → hostStep s = (stepReport s, t) ∧ perform .step s = (.step (stepReport s), t)) ∧
    (∀ f, s.halt = some f → perform .step s = (.step (.fatal f), s))) ∧
  StepReport.ok.code = 0 ∧ StepReport.wait.code = 1 ∧
  (∀ p w, (StepReport.malformedOpcode p w).code = 2) ∧
  (∀ p w, (StepReport.fatal (.stackOverflow p w)).code = 3) ∧
  (∀ p w, (StepReport.fatal (.stackUnderflow p w)).code = 4) ∧
  (∀ p w, (StepReport.fatal (.keyIndexOutOfRange p w)).code = 5) ∧
  LoadReport.ok.code = 0 ∧ ∀ n, (LoadReport.romTooLarge n).code = 6

/-! ### Invariants and reset -/

/-- 40_cycle.md R82 and 10_state.md R34: a step keeps the invariant: pc, I and the saved addresses at most 0xFFF,
memory in its canonical form (the form is the model's, log 11). That the fatal step answers a next state is the
model's choice (log 1). -/
def Obligations.StepKeepsInvariant : Prop :=
  ∀ s t : State, StateInv s → step s = .next t → StateInv t

/-- 10_state.md R33 and R34: the state after reset meets the invariant. -/
def Obligations.ResetMeetsInvariant : Prop :=
  StateInv State.reset

/-- 10_state.md R34: every host operation, and so every session of host operations, keeps the invariant. -/
def Obligations.HostSessionsKeepInvariant : Prop :=
  ∀ (ops : List HostOp) (s : State), StateInv s → StateInv (performAll ops s).2

/-- 10_state.md R33, 70_reset_and_hazards.md R153 and R156 (D12, D15, D27, D16): what the host's reset() (R147) leaves
in any state, and what a core has at creation. The values of I, the other memory, redraw, the stack slots and the
latch are the spec's own decisions D15 and D27 (log 10); that the draw counter and the parameters stay is the model's
choice (log 2, log 3). -/
def Obligations.ResetLeavesDefaults : Prop :=
  (∀ s : State, perform .reset s = (.done, s.resetCore) ∧
    (∀ r, s.resetCore.getV r = 0) ∧ s.resetCore.I = 0 ∧ s.resetCore.pc = 0x200 ∧ s.resetCore.SP.val = 0 ∧
    (∀ k : Nat, (h : k < 16) → s.resetCore.stack[k] = 0) ∧ s.resetCore.DT = 0 ∧ s.resetCore.ST = 0 ∧
    (∀ c r, s.resetCore.grid.cell c r = false) ∧ s.resetCore.redraw = false ∧ s.resetCore.halt = none ∧
    s.resetCore.key = s.key ∧ s.resetCore.draws = s.draws ∧ s.resetCore.params = s.params ∧
    (∀ k : Nat, (h : k < 80) → s.resetCore.readByte (0x050 + k) = s.params.font[k]) ∧
    (∀ a < 0x1000, a < 0x050 ∨ 0x0A0 ≤ a → s.resetCore.readByte a = 0)) ∧
  State.reset.resetCore = State.reset ∧ (∀ k, State.reset.getKey k = false)

/-! ### Frames -/

/-- 10_state.md R35, the W entries: an instruction leaves every part of the state unchanged but those of its row (with
pc, with halt for RET, CALL, SKP, SKNP, and with the model's draw counter for RND, log 3). -/
def Obligations.InstructionsWriteOnlyTheirParts : Prop :=
  ∀ (i : Instr) (s t : State), exec i s = .next t → KeepsAllBut (writes i) s t

/-- 10_state.md R19 and R35: an instruction leaves every general register unchanged but its destination x, and VF
where it writes a flag; FX65 writes V0 to Vx. -/
def Obligations.InstructionsWriteOnlyTheirRegisters : Prop :=
  ∀ (i : Instr) (s t : State) (r : Nibble), exec i s = .next t → writesReg r i = false → t.getV r = s.getV r

/-- 20_memory.md R44 and R48: every byte outside those an instruction stores from I on (3 for FX33, x + 1 for FX55,
none otherwise) reads as before. Addresses wrap by D2 (log 8). -/
def Obligations.InstructionsWriteOnlyTheirBytes : Prop :=
  ∀ (i : Instr) (s t : State) (a : Nat), Memory.wf s.params.font s.mem → exec i s = .next t →
    OutsideFromI s (storedBytes i) a → t.readByte a = s.readByte a

/-! ### Display -/

/-- 41_display.md R83: CLS. The wrap mod 0x1000 is D1 (log 8). The bit patterns are K2 (log 9). -/
def Obligations.ClsClearsGrid : Prop :=
  decodeWord 0x00E0 = .ok .cls ∧
  ∀ s : State, ∃ t, exec .cls s = .next t ∧ (∀ c r, t.grid.cell c r = false) ∧ t.redraw = true ∧ PcPlus 2 s t ∧
    KeepsAllBut [.grid, .redraw, .pc] s t

/-- 41_display.md R84 (D5, D18, D19): DRW as a formula. Each cell is XORed with the sprite bit that covers it; VF is 1
where a set cell was covered, else 0; the coordinates are those before VF is written; redraw is set even for n = 0.
The sprite's layout is the spec's decision D18 (log 9). The wrap mod 0x1000 is D1 (log 8). -/
def Obligations.DrwXorsSprite : Prop :=
  ∀ (x y n : Nibble) (s : State), ∃ t, exec (.drw x y n) s = .next t ∧
    (∀ c < 64, ∀ r < 32,
      (SpriteCovers s x y n c r → t.grid.cell c r = !s.grid.cell c r) ∧
      (¬ SpriteCovers s x y n c r → t.grid.cell c r = s.grid.cell c r)) ∧
    ((∃ c < 64, ∃ r < 32, s.grid.cell c r = true ∧ SpriteCovers s x y n c r) → t.getV 0xF = 1) ∧
    (¬ (∃ c < 64, ∃ r < 32, s.grid.cell c r = true ∧ SpriteCovers s x y n c r) → t.getV 0xF = 0) ∧
    (∀ r, r ≠ 0xF → t.getV r = s.getV r) ∧ t.redraw = true ∧ PcPlus 2 s t ∧
    KeepsAllBut [.grid, .redraw, .V, .pc] s t

/-- 95_test_vectors.md S6, 41_display.md R84: the same sprite drawn twice at the same coordinates leaves the grid as
it was; on a clear grid a sprite that is not empty gives VF = 0 and then VF = 1. Addresses wrap by D2 (log 8). -/
def Obligations.DrwTwiceRestoresGrid : Prop :=
  ∀ (x y n : Nibble) (s t u : State), exec (.drw x y n) s = .next t → exec (.drw x y n) t = .next u →
    t.getV x = s.getV x → t.getV y = s.getV y →
    u.grid = s.grid ∧
    ((∀ c r, s.grid.cell c r = false) → (∃ k < n.toNat, s.readByte (s.I.toNat + k) ≠ 0) →
      t.getV 0xF = 0 ∧ u.getV 0xF = 1)

/-- 41_display.md R86: CLS and DRW set redraw at every execution, no other instruction writes it, and the host's
clearRedrawFlag clears it. -/
def Obligations.RedrawIsSetByDisplayOnly : Prop :=
  (∀ (i : Instr) (s t : State), exec i s = .next t →
    ((i = .cls ∨ ∃ x y n, i = .drw x y n) → t.redraw = true) ∧
    (¬ (i = .cls ∨ ∃ x y n, i = .drw x y n) → t.redraw = s.redraw)) ∧
  (∀ s : State, (perform .clearRedrawFlag s).2.redraw = false)

/-! ### Control flow -/

/-- 42_control_flow.md R90: JP. The bit patterns are K2 (log 9). -/
def Obligations.JpSetsPc : Prop :=
  ∀ nnn : Addr, decodeWord (wordNNN 0x1 nnn) = .ok (.jp nnn) ∧
    ∀ s : State, ∃ t, exec (.jp nnn) s = .next t ∧ t.pc.toNat = nnn.toNat ∧ KeepsAllBut [.pc] s t

/-- 42_control_flow.md R87 and R91: CALL pushes its own address and jumps; with 16 entries it raises StackOverflow and
writes only the halt record. The bit patterns are K2 (log 9). That the fatal step answers a next state is the model's
choice (log 1). -/
def Obligations.CallPushesOwnAddress : Prop :=
  ∀ nnn : Addr, decodeWord (wordNNN 0x2 nnn) = .ok (.call nnn) ∧
    ∀ s : State,
      ((h : s.SP.val < 16) → ∃ t, exec (.call nnn) s = .next t ∧ t.stack[s.SP.val] = s.pc ∧ t.SP.val = s.SP.val + 1 ∧
        (∀ k : Nat, (hk : k < 16) → k ≠ s.SP.val → t.stack[k] = s.stack[k]) ∧ t.pc.toNat = nnn.toNat ∧
        KeepsAllBut [.stack, .SP, .pc] s t) ∧
      (s.SP.val = 16 →
        exec (.call nnn) s = .next { s with halt := some (.stackOverflow s.pc (wordNNN 0x2 nnn)) })

/-- 42_control_flow.md R88 and R89: RET pops the most recent address and goes to it + 2; on an empty stack it raises
StackUnderflow and writes only the halt record. The wrap mod 0x1000 is D1 (log 8). The bit patterns are K2 (log 9).
That the fatal step answers a next state is the model's choice (log 1). -/
def Obligations.RetPopsLatestAddress : Prop :=
  decodeWord 0x00EE = .ok .ret ∧
  ∀ s : State,
    ((h : 0 < s.SP.val) → ∃ t, exec .ret s = .next t ∧ t.SP.val = s.SP.val - 1 ∧
      t.pc.toNat = ((s.stack[s.SP.val - 1]).toNat + 2) % 0x1000 ∧ KeepsAllBut [.SP, .pc] s t) ∧
    (s.SP.val = 0 → exec .ret s = .next { s with halt := some (.stackUnderflow s.pc 0x00EE) })

/-- 42_control_flow.md R89 and R91: a RET executed where the CALL left the stack resumes at the word after the CALL,
with the stack as it was. The wrap mod 0x1000 is D1 (log 8). -/
def Obligations.CallThenRetResumes : Prop :=
  ∀ (nnn : Addr) (s t : State), s.SP.val < 16 → exec (.call nnn) s = .next t →
    ∃ u, exec .ret t = .next u ∧ PcPlus 2 s u ∧ u.SP = s.SP ∧ SameBelowSP { s with pc := u.pc } u

/-- 42_control_flow.md R92 and R93: the skips on an immediate. The wrap mod 0x1000 is D1 (log 8). The bit patterns are
K2 (log 9). -/
def Obligations.SkipsOnByte : Prop :=
  ∀ (x : Nibble) (nn : Byte),
    decodeWord (wordXNN 0x3 x nn) = .ok (.seByte x nn) ∧ decodeWord (wordXNN 0x4 x nn) = .ok (.sneByte x nn) ∧
    ∀ s : State,
      (∃ t, exec (.seByte x nn) s = .next t ∧ KeepsAllBut [.pc] s t ∧
        (s.getV x = nn → PcPlus 4 s t) ∧ (s.getV x ≠ nn → PcPlus 2 s t)) ∧
      (∃ t, exec (.sneByte x nn) s = .next t ∧ KeepsAllBut [.pc] s t ∧
        (s.getV x ≠ nn → PcPlus 4 s t) ∧ (s.getV x = nn → PcPlus 2 s t))

/-- 42_control_flow.md R94 and R95: the skips on two registers; with a low nibble other than 0 the word is
MalformedOpcode. The wrap mod 0x1000 is D1 (log 8). The bit patterns are K2 (log 9). -/
def Obligations.SkipsOnRegisters : Prop :=
  ∀ x y : Nibble,
    decodeWord (wordXYN 0x5 x y 0x0) = .ok (.seReg x y) ∧ decodeWord (wordXYN 0x9 x y 0x0) = .ok (.sneReg x y) ∧
    (∀ n : Nibble, n ≠ 0 →
      decodeWord (wordXYN 0x5 x y n) = .error (.malformedOpcode (wordXYN 0x5 x y n)) ∧
      decodeWord (wordXYN 0x9 x y n) = .error (.malformedOpcode (wordXYN 0x9 x y n))) ∧
    ∀ s : State,
      (∃ t, exec (.seReg x y) s = .next t ∧ KeepsAllBut [.pc] s t ∧
        (s.getV x = s.getV y → PcPlus 4 s t) ∧ (s.getV x ≠ s.getV y → PcPlus 2 s t)) ∧
      (∃ t, exec (.sneReg x y) s = .next t ∧ KeepsAllBut [.pc] s t ∧
        (s.getV x ≠ s.getV y → PcPlus 4 s t) ∧ (s.getV x = s.getV y → PcPlus 2 s t))

/-- 42_control_flow.md R96: JP V0, addr; the sum is taken mod 0x1000, the spec's decision D1. -/
def Obligations.JpV0AddsV0 : Prop :=
  ∀ (nnn : Addr) (s : State), ∃ t, exec (.jpV0 nnn) s = .next t ∧
    t.pc.toNat = (nnn.toNat + (s.getV 0x0).toNat) % 0x1000 ∧ KeepsAllBut [.pc] s t

/-! ### Registers and arithmetic -/

/-- 43_alu.md R101 and R103: the loads of a register from an immediate and from a register. The wrap mod 0x1000 is D1
(log 8). Bit patterns other than 6XNN and 8XY4 are K2 (log 9). -/
def Obligations.LoadsWriteVx : Prop :=
  (∀ (x : Nibble) (nn : Byte), decodeWord (wordXNN 0x6 x nn) = .ok (.ldByte x nn) ∧
    ∀ s : State, ∃ t, exec (.ldByte x nn) s = .next t ∧ WroteReg x nn s t) ∧
  (∀ x y : Nibble, decodeWord (wordXYN 0x8 x y 0x0) = .ok (.ldReg x y) ∧
    ∀ s : State, ∃ t, exec (.ldReg x y) s = .next t ∧ WroteReg x (s.getV y) s t)

/-- 43_alu.md R102: ADD Vx, byte, mod 256; VF changes only as the destination. The wrap mod 0x1000 is D1 (log 8). The
bit patterns are K2 (log 9). -/
def Obligations.AddByteWraps : Prop :=
  ∀ (x : Nibble) (nn : Byte), decodeWord (wordXNN 0x7 x nn) = .ok (.addByte x nn) ∧
    ∀ s : State, ∃ t v, exec (.addByte x nn) s = .next t ∧ v.toNat = ((s.getV x).toNat + nn.toNat) % 256 ∧
      WroteReg x v s t

/-- 43_alu.md R104, R105, R106: OR, AND, XOR bit by bit; VF is not reset (the spec's decision D6). The wrap mod 0x1000
is D1 (log 8). -/
def Obligations.LogicIsBitwise : Prop :=
  ∀ (x y : Nibble) (s : State),
    (∃ t v, exec (.orReg x y) s = .next t ∧ WroteReg x v s t ∧
      ∀ k < 8, v.getLsbD k = ((s.getV x).getLsbD k || (s.getV y).getLsbD k)) ∧
    (∃ t v, exec (.andReg x y) s = .next t ∧ WroteReg x v s t ∧
      ∀ k < 8, v.getLsbD k = ((s.getV x).getLsbD k && (s.getV y).getLsbD k)) ∧
    (∃ t v, exec (.xorReg x y) s = .next t ∧ WroteReg x v s t ∧
      ∀ k < 8, v.getLsbD k = ((s.getV x).getLsbD k != (s.getV y).getLsbD k))

/-- 43_alu.md R107: ADD Vx, Vy with the carry in VF, for both values of VF_ORDER. The wrap mod 0x1000 is D1 (log 8).
-/
def Obligations.AddRegCarries : Prop :=
  ∀ x y : Nibble, decodeWord (wordXYN 0x8 x y 0x4) = .ok (.addReg x y) ∧
    ∀ s : State, ∃ t, exec (.addReg x y) s = .next t ∧
      WroteFlagged x (if (s.getV x).toNat + (s.getV y).toNat > 255 then 1 else 0)
        (((s.getV x).toNat + (s.getV y).toNat) % 256) s t

/-- 43_alu.md R108 and R110: SUB and SUBN mod 256, VF = 1 where there is no borrow, for both values of VF_ORDER. The
wrap mod 0x1000 is D1 (log 8). The bit patterns are K2 (log 9). -/
def Obligations.SubtractsBorrow : Prop :=
  ∀ x y : Nibble,
    decodeWord (wordXYN 0x8 x y 0x5) = .ok (.subReg x y) ∧ decodeWord (wordXYN 0x8 x y 0x7) = .ok (.subn x y) ∧
    ∀ s : State,
      (∃ t, exec (.subReg x y) s = .next t ∧
        WroteFlagged x (if (s.getV x).toNat ≥ (s.getV y).toNat then 1 else 0)
          (((s.getV x).toNat + 256 - (s.getV y).toNat) % 256) s t) ∧
      (∃ t, exec (.subn x y) s = .next t ∧
        WroteFlagged x (if (s.getV y).toNat ≥ (s.getV x).toNat then 1 else 0)
          (((s.getV y).toNat + 256 - (s.getV x).toNat) % 256) s t)

/-- 43_alu.md R109 and R111: SHR and SHL by one, VF = the bit shifted out, for both values of VF_ORDER; y is ignored.
The wrap mod 0x1000 is D1 (log 8). The bit patterns are K2 (log 9). -/
def Obligations.ShiftsByOne : Prop :=
  ∀ x y : Nibble,
    decodeWord (wordXYN 0x8 x y 0x6) = .ok (.shr x y) ∧ decodeWord (wordXYN 0x8 x y 0xE) = .ok (.shl x y) ∧
    ∀ s : State,
      (∃ t, exec (.shr x y) s = .next t ∧ WroteFlagged x ((s.getV x).toNat % 2) ((s.getV x).toNat / 2) s t) ∧
      (∃ t, exec (.shl x y) s = .next t ∧ WroteFlagged x ((s.getV x).toNat / 128) (2 * (s.getV x).toNat % 256) s t) ∧
      (∀ y' : Nibble, exec (.shr x y') s = exec (.shr x y) s ∧ exec (.shl x y') s = exec (.shl x y) s)

/-- 43_alu.md R112 (D20): RND writes the draw ANDed with nn. The draw is the free value of the draw counter (log 3):
the statement holds whatever byte it is; the next draw is another free value. The wrap mod 0x1000 is D1 (log 8). -/
def Obligations.RndMasksFreeByte : Prop :=
  ∀ (x : Nibble) (nn : Byte) (s : State), ∃ t, exec (.rnd x nn) s = .next t ∧
    (∀ k < 8, (t.getV x).getLsbD k = ((Config.randomByte s.draws).getLsbD k && nn.getLsbD k)) ∧
    (∀ r, r ≠ x → t.getV r = s.getV r) ∧ t.draws = s.draws + 1 ∧ PcPlus 2 s t ∧ KeepsAllBut [.V, .pc, .draws] s t

/-! ### Index register and memory -/

/-- 44_index_memory.md R115 and R116: LD I, addr, and ADD I, Vx with VF = 1 where the sum passes 0xFFF; for x = 0xF
the operand is VF before the flag write. The wrap mod 0x1000 is D1 (log 8). The bit patterns are K2 (log 9). -/
def Obligations.IndexLoadsAndAdds : Prop :=
  (∀ nnn : Addr, decodeWord (wordNNN 0xA nnn) = .ok (.ldI nnn) ∧
    ∀ s : State, ∃ t, exec (.ldI nnn) s = .next t ∧ t.I.toNat = nnn.toNat ∧ PcPlus 2 s t ∧ KeepsAllBut [.I, .pc] s t) ∧
  (∀ x : Nibble, decodeWord (wordXNN 0xF x 0x1E) = .ok (.addIVx x) ∧
    ∀ s : State, ∃ t, exec (.addIVx x) s = .next t ∧
      t.I.toNat = (s.I.toNat + (s.getV x).toNat) % 0x1000 ∧
      (t.getV 0xF).toNat = (if s.I.toNat + (s.getV x).toNat > 0xFFF then 1 else 0) ∧
      (∀ r, r ≠ 0xF → t.getV r = s.getV r) ∧ PcPlus 2 s t ∧ KeepsAllBut [.V, .I, .pc] s t)

/-- 44_index_memory.md R117: LD F, Vx; Vx is not reduced to a nibble (the spec's decision D17), the base is 0x050
(C7). The wrap mod 0x1000 is D1 (log 8). -/
def Obligations.GlyphAddressIsBasePlusFive : Prop :=
  ∀ (x : Nibble) (s : State), ∃ t, exec (.ldFVx x) s = .next t ∧ t.I.toNat = 0x050 + 5 * (s.getV x).toNat ∧
    PcPlus 2 s t ∧ KeepsAllBut [.I, .pc] s t

/-- 44_index_memory.md R118: LD B, Vx stores the hundreds, tens and ones digits at I, I + 1, I + 2, and nothing else.
The wrap mod 0x1000 is D1 (log 8). The bit patterns are K2 (log 9). Addresses wrap by D2 (log 8). -/
def Obligations.BcdStoresDigits : Prop :=
  ∀ x : Nibble, decodeWord (wordXNN 0xF x 0x33) = .ok (.ldBVx x) ∧
    ∀ s : State, Memory.wf s.params.font s.mem → ∃ t, exec (.ldBVx x) s = .next t ∧
      (t.readByte s.I.toNat).toNat = (s.getV x).toNat / 100 ∧
      (t.readByte (s.I.toNat + 1)).toNat = (s.getV x).toNat / 10 % 10 ∧
      (t.readByte (s.I.toNat + 2)).toNat = (s.getV x).toNat % 10 ∧
      (∀ a, OutsideFromI s 3 a → t.readByte a = s.readByte a) ∧ PcPlus 2 s t ∧ KeepsAllBut [.mem, .pc] s t

/-- 44_index_memory.md R119: LD [I], Vx stores V0 to Vx from I on, and nothing else; I is unchanged. The wrap mod
0x1000 is D1 (log 8). The bit patterns are K2 (log 9). Addresses wrap by D2 (log 8). -/
def Obligations.DumpStoresRegisters : Prop :=
  ∀ x : Nibble, decodeWord (wordXNN 0xF x 0x55) = .ok (.ldMemVx x) ∧
    ∀ s : State, Memory.wf s.params.font s.mem → ∃ t, exec (.ldMemVx x) s = .next t ∧
      (∀ k : Nibble, k.toNat ≤ x.toNat → t.readByte (s.I.toNat + k.toNat) = s.getV k) ∧
      (∀ a, OutsideFromI s (x.toNat + 1) a → t.readByte a = s.readByte a) ∧ PcPlus 2 s t ∧ KeepsAllBut [.mem, .pc] s t

/-- 44_index_memory.md R120: LD Vx, [I] loads V0 to Vx from I on; the registers above x, I and memory are unchanged.
The wrap mod 0x1000 is D1 (log 8). The bit patterns are K2 (log 9). Addresses wrap by D2 (log 8). -/
def Obligations.LoadReadsRegisters : Prop :=
  ∀ x : Nibble, decodeWord (wordXNN 0xF x 0x65) = .ok (.ldVxMem x) ∧
    ∀ s : State, ∃ t, exec (.ldVxMem x) s = .next t ∧
      (∀ k : Nibble, k.toNat ≤ x.toNat → t.getV k = s.readByte (s.I.toNat + k.toNat)) ∧
      (∀ k : Nibble, x.toNat < k.toNat → t.getV k = s.getV k) ∧ PcPlus 2 s t ∧ KeepsAllBut [.V, .pc] s t

/-- 44_index_memory.md R122: FX55 and later FX65 with the same x and I, the bytes from I to I + x unwritten between
them, reproduces V0 to Vx, and I is as it was. Addresses wrap by D2 (log 8). -/
def Obligations.DumpThenLoadRoundTrips : Prop :=
  ∀ (x : Nibble) (s t u v : State), Memory.wf s.params.font s.mem → exec (.ldMemVx x) s = .next t →
    u.I = s.I → (∀ k ≤ x.toNat, u.readByte (s.I.toNat + k) = t.readByte (s.I.toNat + k)) →
    exec (.ldVxMem x) u = .next v →
    (∀ k : Nibble, k.toNat ≤ x.toNat → v.getV k = s.getV k) ∧ t.I = s.I ∧ v.I = s.I

/-- 20_memory.md R53 and 70_reset_and_hazards.md R164 (the spec's decision D24): each byte that FX55, FX33 or
loadProgram stores is what a step fetches at its address, as the first or the second byte of the word, in every later
state `u` in which the byte is as it was stored; the end of the step changes no byte, so the very next step is among
them. Addresses wrap by D2 (log 8). -/
def Obligations.StoredCodeIsFetched : Prop :=
  (∀ (x k : Nibble) (s t u : State), Memory.wf s.params.font s.mem → exec (.ldMemVx x) s = .next t →
    k.toNat ≤ x.toNat → u.readByte (s.I.toNat + k.toNat) = t.readByte (s.I.toNat + k.toNat) →
    FetchesByte (s.I.toNat + k.toNat) (s.getV k) u) ∧
  (∀ (x : Nibble) (k : Nat) (v : Byte) (s t u : State), Memory.wf s.params.font s.mem → exec (.ldBVx x) s = .next t →
    k < 3 → v.toNat = (s.getV x).toNat / 10 ^ (2 - k) % 10 →
    u.readByte (s.I.toNat + k) = t.readByte (s.I.toNat + k) → FetchesByte (s.I.toNat + k) v u) ∧
  (∀ (bytes : List Byte) (k : Nat) (s u : State) (h : k < bytes.length), Memory.wf s.params.font s.mem →
    bytes.length ≤ 3584 → u.readByte (0x200 + k) = (perform (.loadProgram bytes) s).2.readByte (0x200 + k) →
    FetchesByte (0x200 + k) bytes[k] u) ∧
  (∀ (i : Instr) (s t u : State), s.halt = none → decodeWord s.fetchWord = .ok i → exec i s = .next t →
    step s = .next u → ∀ a, u.readByte a = t.readByte a)

/-! ### Keys and timers -/

/-- 45_timers_input.md R123, R124, R125 (D8): the key skips. The key is the value below 16, and under LOW_NIBBLE its
low nibble; under FAULT a value of 16 or more raises KeyIndexOutOfRange and only the halt record is written. The wrap
mod 0x1000 is D1 (log 8). The bit patterns are K2 (log 9). That the fatal step answers a next state is the model's
choice (log 1). -/
def Obligations.KeySkipsTestLatch : Prop :=
  ∀ (x k : Nibble) (s : State), k.toNat = (s.getV x).toNat % 16 →
    ((s.getV x).toNat < 16 ∨ s.params.keyIndexPolicy = .lowNibble →
      (∃ t, exec (.skp x) s = .next t ∧ KeepsAllBut [.pc] s t ∧
        (s.getKey k = true → PcPlus 4 s t) ∧ (s.getKey k = false → PcPlus 2 s t)) ∧
      (∃ t, exec (.sknp x) s = .next t ∧ KeepsAllBut [.pc] s t ∧
        (s.getKey k = false → PcPlus 4 s t) ∧ (s.getKey k = true → PcPlus 2 s t))) ∧
    (16 ≤ (s.getV x).toNat ∧ s.params.keyIndexPolicy = .fault →
      exec (.skp x) s = .next { s with halt := some (.keyIndexOutOfRange s.pc (wordXNN 0xE x 0x9E)) } ∧
      exec (.sknp x) s = .next { s with halt := some (.keyIndexOutOfRange s.pc (wordXNN 0xE x 0xA1)) })

/-- 45_timers_input.md R126: LD Vx, DT reads DT before the step's own decrement. The wrap mod 0x1000 is D1 (log 8).
The bit patterns are K2 (log 9). -/
def Obligations.ReadsDelayTimer : Prop :=
  ∀ x : Nibble, decodeWord (wordXNN 0xF x 0x07) = .ok (.ldVxDT x) ∧
    ∀ s : State, ∃ t, exec (.ldVxDT x) s = .next t ∧ WroteReg x s.DT s t

/-- 45_timers_input.md R127 (D9): with no key pressed LD Vx, K changes nothing; else Vx is the lowest pressed index.
The wrap mod 0x1000 is D1 (log 8). -/
def Obligations.KeyWaitTakesLowest : Prop :=
  ∀ (x : Nibble) (s : State),
    ((∀ k, s.getKey k = false) → exec (.ldVxK x) s = .next s) ∧
    (∀ k : Nibble, s.getKey k = true → (∀ j : Nibble, j.toNat < k.toNat → s.getKey j = false) →
      ∃ t v, exec (.ldVxK x) s = .next t ∧ v.toNat = k.toNat ∧ WroteReg x v s t)

/-- 45_timers_input.md R128 and R129: LD DT, Vx and LD ST, Vx; the end of the step then counts the new value down
under PER_STEP and leaves it under EXTERNAL_TICK. The wrap mod 0x1000 is D1 (log 8). The bit patterns are K2 (log 9).
-/
def Obligations.SetsTimers : Prop :=
  ∀ x : Nibble,
    decodeWord (wordXNN 0xF x 0x15) = .ok (.ldDTVx x) ∧ decodeWord (wordXNN 0xF x 0x18) = .ok (.ldSTVx x) ∧
    ∀ s : State,
      (∃ t, exec (.ldDTVx x) s = .next t ∧ t.DT = s.getV x ∧ PcPlus 2 s t ∧ KeepsAllBut [.DT, .pc] s t ∧
        (s.halt = none → s.params.timerCoupling = .perStep → t.finishStep.DT.toNat = (s.getV x).toNat - 1) ∧
        (s.params.timerCoupling = .externalTick → t.finishStep.DT = s.getV x)) ∧
      (∃ t, exec (.ldSTVx x) s = .next t ∧ t.ST = s.getV x ∧ PcPlus 2 s t ∧ KeepsAllBut [.ST, .pc] s t ∧
        (s.halt = none → s.params.timerCoupling = .perStep → t.finishStep.ST.toNat = (s.getV x).toNat - 1) ∧
        (s.params.timerCoupling = .externalTick → t.finishStep.ST = s.getV x))

/-- 10_state.md R22 and R23: a step raises DT only where it runs FX15, and ST only where it runs FX18. -/
def Obligations.TimersOnlyRiseWhenSet : Prop :=
  ∀ s t : State, step s = .next t →
    ((∀ x, decodeWord s.fetchWord ≠ .ok (.ldDTVx x)) → t.DT.toNat ≤ s.DT.toNat) ∧
    ((∀ x, decodeWord s.fetchWord ≠ .ok (.ldSTVx x)) → t.ST.toNat ≤ s.ST.toNat)

/-- 45_timers_input.md R130: no instruction and no step writes the input latch, and a step reads the latch that the
last setInput left. -/
def Obligations.LatchIsReadOnlyInStep : Prop :=
  (∀ (i : Instr) (s t : State), exec i s = .next t → t.key = s.key) ∧
  (∀ s t : State, step s = .next t → t.key = s.key) ∧
  (∀ (s : State) (keys : Vector Bool 16) (k : Nibble), (perform (.setInput keys) s).2.getKey k = keys[k.toNat]'k.isLt)

/-! ### The host interface -/

/-- 60_exceptions.md R148 and R149: setInput overwrites the latch and nothing else, clearRedrawFlag clears redraw and
nothing else, pixelGrid and needsRedraw answer and change nothing; in every state, a halted one too. -/
def Obligations.HostReadsAndLatch : Prop :=
  ∀ (s : State) (keys : Vector Bool 16),
    perform (.setInput keys) s = (.done, { s with key := keys }) ∧
    perform .clearRedrawFlag s = (.done, { s with redraw := false }) ∧
    perform .pixelGrid s = (.grid s.grid, s) ∧ perform .needsRedraw s = (.redraw s.redraw, s)

/-- 70_reset_and_hazards.md R157: the host's loadProgram copies the bytes verbatim to 0x200 on, up to exactly 3584 of
them; more are RomTooLarge, with no change. -/
def Obligations.LoadProgramCopiesBytes : Prop :=
  ∀ (s : State) (bytes : List Byte), Memory.wf s.params.font s.mem →
    (bytes.length ≤ 3584 → ∃ t, s.loadProgram bytes = (.ok, t) ∧
      perform (.loadProgram bytes) s = (.load .ok, t) ∧
      ∀ k : Nat, (h : k < bytes.length) → t.readByte (0x200 + k) = bytes[k]) ∧
    (bytes.length > 3584 → s.loadProgram bytes = (.romTooLarge bytes.length, s) ∧
      perform (.loadProgram bytes) s = (.load (.romTooLarge bytes.length), s))

/-- 70_reset_and_hazards.md R158 (the spec's decision D22): a load writes only the image's bytes; the bytes before and
after it and every other part keep their values; an empty image changes nothing. -/
def Obligations.LoadProgramWritesOnlyImage : Prop :=
  ∀ (s : State) (bytes : List Byte), Memory.wf s.params.font s.mem →
    KeepsAllBut [.mem] s (perform (.loadProgram bytes) s).2 ∧
    (∀ a < 0x1000, a < 0x200 ∨ 0x200 + bytes.length ≤ a →
      (perform (.loadProgram bytes) s).2.readByte a = s.readByte a) ∧
    perform (.loadProgram []) s = (.load .ok, s)

/-- 40_cycle.md R80 (the spec's decision D11): tick exists only under EXTERNAL_TICK; it decrements both timers and
nothing else, and nothing at all while the core is halted. That tick answers absent under PER_STEP is the model's
choice (log 15). -/
def Obligations.TickDecrementsTimers : Prop :=
  ∀ s : State,
    (s.params.timerCoupling = .externalTick → s.halt = none → ∃ t, perform .tick s = (.done, t) ∧
      t.DT.toNat = s.DT.toNat - 1 ∧ t.ST.toNat = s.ST.toNat - 1 ∧ KeepsAllBut [.DT, .ST] s t) ∧
    (s.params.timerCoupling = .externalTick → s.halt ≠ none → perform .tick s = (.done, s)) ∧
    (s.params.timerCoupling = .perStep → perform .tick s = (.absent, s))

/-! ### What a program cannot observe -/

/-- 10_state.md R24: slots at and above SP hold no value a program can observe: two states that differ only there step
to states that differ only there, and report the same outcome. For RND the two steps agree for the same draw: that
equal counters give equal bytes is the model's choice (log 3, DESIGN CHOICE). -/
def Obligations.StackAboveSpIsUnobservable : Prop :=
  ∀ s s' : State, SameBelowSP s s' →
    stepReport s' = stepReport s ∧ (∀ t, step s = .next t → ∃ t', step s' = .next t' ∧ SameBelowSP t t')

/-- 10_state.md R23 and R26: no instruction reads ST or redraw: changing either before a step changes nothing after it
but that part itself, nor the outcome reported. For RND the two steps agree for the same draw: that equal counters
give equal bytes is the model's choice (log 3, DESIGN CHOICE). -/
def Obligations.SoundTimerAndRedrawAreUnread : Prop :=
  ∀ (s t : State) (st : Byte) (b : Bool), step s = .next t →
    stepReport { s with ST := st, redraw := b } = stepReport s ∧
    ∃ t', step { s with ST := st, redraw := b } = .next t' ∧ t' = { t with ST := t'.ST, redraw := t'.redraw }
end

