-- ==== Sys2Proof/Laws/Grid.lean ====
section
/-! SUPPORT. Cells of the pixel grid after each grid operation. -/

namespace Sys2Proof.Machine

/-- A cell after a flip: the flipped cell is toggled, every other cell is as before. -/
theorem Grid.cell_flip (g : Grid) (c r c' r' : Nat) :
    (g.flip c r).cell c' r' =
      if c' % 64 = c % 64 ∧ r' % 32 = r % 32 then !g.cell c r else g.cell c' r' := by
  unfold Grid.flip Grid.cell
  simp only [Vector.getElem_set]
  by_cases hc : c % 64 = c' % 64
  · by_cases hr : r % 32 = r' % 32
    · simp [hc, hr]
    · simp [hc, hr, Ne.symm hr]
  · simp [hc, Ne.symm hc]

/-- Every cell of the clear grid is 0. -/
@[simp] theorem Grid.cell_clear (c r : Nat) : Grid.clear.cell c r = false := by
  simp [Grid.clear, Grid.cell]

/-- Two grids with the same cells are the same grid. -/
theorem Grid.ext_cell (g h : Grid) (H : ∀ c < 64, ∀ r < 32, g.cell c r = h.cell c r) : g = h := by
  apply Vector.ext
  intro c hc
  apply Vector.ext
  intro r hr
  have := H c hc r hr
  simpa [Grid.cell, Nat.mod_eq_of_lt hc, Nat.mod_eq_of_lt hr] using this

/-- A cell reads the same whichever representative of its column and row is named. -/
theorem Grid.cell_mod (g : Grid) (c r : Nat) : g.cell (c % 64) (r % 32) = g.cell c r := by
  simp [Grid.cell]

end Sys2Proof.Machine
end

