-- ==== Sys2Proof/Laws/Draw.lean ====
section
/-! SUPPORT. What drawing a sprite does to each cell of the grid, and when it reports a collision (41_display.md R84). -/

namespace Sys2Proof.Machine

/-- The first `k` columns of sprite row `b`, drawn at column `cx` and row `py`, set the cell (c, r). -/
def RowHit (b : Byte) (cx py k c r : Nat) : Prop := ∃ dc < k, (cx + dc) % 64 = c ∧ py % 32 = r ∧ spriteBit b dc = true

/-- The first `k` columns of a sprite row: the cells they set are toggled, no other, and the flag says whether one of
them was set before. -/
theorem drawColumns_spec (acc : Grid × Bool) (b : Byte) (cx py k : Nat) (hk : k ≤ 8) :
    let d := (List.range k).foldl (fun acc c => if spriteBit b c then drawCell acc (cx + c) py else acc) acc
    (∀ c < 64, ∀ r < 32, (RowHit b cx py k c r → d.1.cell c r = !acc.1.cell c r) ∧ (¬ RowHit b cx py k c r → d.1.cell c r = acc.1.cell c r)) ∧
    (d.2 = true ↔ acc.2 = true ∨ ∃ dc < k, spriteBit b dc = true ∧ acc.1.cell (cx + dc) py = true) := by
  induction k with
  | zero => simp [RowHit]
  | succ k ih =>
    obtain ⟨ih1, ih2⟩ := ih (by omega)
    simp only [List.range_succ, List.foldl_append, List.foldl_cons, List.foldl_nil]
    set d := (List.range k).foldl (fun acc c => if spriteBit b c then drawCell acc (cx + c) py else acc) acc
    have hcell : d.1.cell (cx + k) py = acc.1.cell (cx + k) py := by
      rw [← Grid.cell_mod d.1, ← Grid.cell_mod acc.1]
      refine (ih1 _ (Nat.mod_lt _ (by decide)) _ (Nat.mod_lt _ (by decide))).2 ?_
      rintro ⟨dc, h1, h2, _⟩
      omega
    by_cases hb : spriteBit b k
    · rw [if_pos hb]
      simp only [drawCell, Grid.cell_flip, hcell]
      refine ⟨fun c hc r hr => ⟨?_, ?_⟩, ?_⟩
      · rintro ⟨dc, h1, h2, h3, h4⟩
        by_cases hdk : dc = k
        · subst hdk
          rw [if_pos (by omega)]
          rw [← Grid.cell_mod acc.1]; simp [h2, h3]
        · rw [if_neg (by omega)]
          exact (ih1 c hc r hr).1 ⟨dc, by omega, h2, h3, h4⟩
      · intro hn
        rw [if_neg (fun h => hn ⟨k, by omega, by omega, by omega, hb⟩)]
        refine (ih1 c hc r hr).2 ?_
        rintro ⟨dc, h1, h2⟩; exact hn ⟨dc, by omega, h2⟩
      · simp only [Bool.or_eq_true, ih2]
        constructor
        · rintro ((h | ⟨dc, h1, h2⟩) | h)
          · exact .inl h
          · exact .inr ⟨dc, by omega, h2⟩
          · exact .inr ⟨k, by omega, hb, h⟩
        · rintro (h | ⟨dc, h1, h2⟩)
          · exact .inl (.inl h)
          · by_cases hdk : dc = k
            · subst hdk; exact .inr h2.2
            · exact .inl (.inr ⟨dc, by omega, h2⟩)
    · rw [if_neg hb]
      have e : ∀ c r, RowHit b cx py (k+1) c r ↔ RowHit b cx py k c r := by
        intro c r; constructor
        · rintro ⟨dc, h1, h2⟩
          have : dc ≠ k := by rintro rfl; exact hb h2.2.2
          exact ⟨dc, by omega, h2⟩
        · rintro ⟨dc, h1, h2⟩; exact ⟨dc, by omega, h2⟩
      refine ⟨fun c hc r hr => by rw [e]; exact ih1 c hc r hr, ?_⟩
      rw [ih2]
      constructor
      · rintro (h | ⟨dc, h1, h2⟩)
        · exact .inl h
        · exact .inr ⟨dc, by omega, h2⟩
      · rintro (h | ⟨dc, h1, h2⟩)
        · exact .inl h
        · have : dc ≠ k := by rintro rfl; exact hb h2.1
          exact .inr ⟨dc, by omega, h2⟩

/-- The sprite rows `l`, drawn at column `cx` and row `cy`, set the cell (c, r). -/
def RowsHit (l : List Byte) (cx cy c r : Nat) : Prop := ∃ dr, ∃ h : dr < l.length, RowHit l[dr] cx (cy + dr) 8 c r

/-- Everything drawing sprite rows can do: at most 32 rows of 8 columns visit no cell twice (R84), so each set cell is
toggled once, and the flag says whether one of them was set before. -/
theorem drawRows_spec (l : List Byte) : ∀ (acc : Grid × Bool) (cx cy : Nat) (_ : l.length ≤ 32),
    (∀ c < 64, ∀ r < 32, (RowsHit l cx cy c r → (drawRows acc cx cy l).1.cell c r = !acc.1.cell c r) ∧ (¬ RowsHit l cx cy c r → (drawRows acc cx cy l).1.cell c r = acc.1.cell c r)) ∧
    ((drawRows acc cx cy l).2 = true ↔ acc.2 = true ∨ ∃ c < 64, ∃ r < 32, acc.1.cell c r = true ∧ RowsHit l cx cy c r) := by
  induction l with
  | nil => intro acc cx cy _; simp [RowsHit, drawRows]
  | cons b rest ih =>
    intro acc cx cy hl
    simp only [List.length_cons] at hl
    obtain ⟨r1, r2⟩ := drawColumns_spec acc b cx cy 8 (by omega)
    obtain ⟨i1, i2⟩ := ih (drawRow acc b cx cy) cx (cy + 1) (by omega)
    simp only [drawRows]
    have split_hit : ∀ c r, RowsHit (b :: rest) cx cy c r ↔ RowHit b cx cy 8 c r ∨ RowsHit rest cx (cy+1) c r := by
      intro c r; constructor
      · rintro ⟨dr, h, hh⟩
        cases dr with
        | zero => exact .inl (by simpa using hh)
        | succ dr => exact .inr ⟨dr, by simpa using h, by simpa [Nat.add_assoc, Nat.add_comm 1] using hh⟩
      · rintro (h | ⟨dr, h, hh⟩)
        · exact ⟨0, by simp, by simpa using h⟩
        · exact ⟨dr+1, by simpa using h, by simpa [Nat.add_assoc, Nat.add_comm 1] using hh⟩
    have disj : ∀ c r, RowHit b cx cy 8 c r → ¬ RowsHit rest cx (cy+1) c r := by
      rintro c r ⟨dc, _, _, h3, _⟩ ⟨dr, h, dc', _, _, h3', _⟩
      omega
    refine ⟨fun c hc r hr => ⟨?_, ?_⟩, ?_⟩
    · rw [split_hit]
      rintro (h | h)
      · rw [(i1 c hc r hr).2 (disj c r h)]; exact (r1 c hc r hr).1 h
      · rw [(i1 c hc r hr).1 h]
        congr 1
        exact (r1 c hc r hr).2 (fun h' => disj c r h' h)
    · rw [split_hit]; intro h
      rw [(i1 c hc r hr).2 (fun h' => h (.inr h'))]; exact (r1 c hc r hr).2 (fun h' => h (.inl h'))
    · rw [i2]
      have r2' : (drawRow acc b cx cy).2 = true ↔ acc.2 = true ∨ ∃ dc < 8, spriteBit b dc = true ∧ acc.1.cell (cx + dc) cy = true := r2
      rw [r2']
      constructor
      · rintro ((h | ⟨dc, h1, h2, h3⟩) | ⟨c, hc, r, hr, h1, h2⟩)
        · exact .inl h
        · refine .inr ⟨(cx+dc)%64, Nat.mod_lt _ (by decide), cy % 32, Nat.mod_lt _ (by decide), ?_, ?_⟩
          · rw [Grid.cell_mod]; exact h3
          · rw [split_hit]; exact .inl ⟨dc, h1, rfl, rfl, h2⟩
        · refine .inr ⟨c, hc, r, hr, ?_, (split_hit c r).2 (.inr h2)⟩
          rw [← (r1 c hc r hr).2 (fun h' => disj c r h' h2)]; exact h1
      · rintro (h | ⟨c, hc, r, hr, h1, h2⟩)
        · exact .inl (.inl h)
        · rcases (split_hit c r).1 h2 with h | h
          · obtain ⟨dc, a1, a2, a3, a4⟩ := h
            refine .inl (.inr ⟨dc, a1, a4, ?_⟩)
            rw [← Grid.cell_mod, a2, a3]; exact h1
          · refine .inr ⟨c, hc, r, hr, ?_, h⟩
            show (drawRow acc b cx cy).1.cell c r = true
            have := (r1 c hc r hr).2 (fun h' => disj c r h' h)
            exact this.trans h1

end Sys2Proof.Machine
end

