-- ==== Sys2Proof/Laws/Memory.lean ====
section
/-! SUPPORT. The laws of memory: a read after a write, and that every memory operation keeps the canonical form. -/

namespace Sys2Proof.Machine

/-- An address below every listed one reads as its reset contents. -/
theorem Memory.read_of_lt (font : Font) (m : Memory) (a : Nat) (h : ∀ c ∈ m, a < c.1) :
    Memory.read font m a = resetByte font a := by
  induction m with
  | nil => rfl
  | cons c rest ih =>
    obtain ⟨k, b⟩ := c
    have hk : a < k := h (k, b) (by simp)
    rw [Memory.read, if_neg (by omega)]
    exact ih fun c hc => h c (by simp [hc])

/-- Read after write: the written address gives the value, every other address what it gave before. -/
theorem Memory.read_write (font : Font) (m : Memory) (hm : m.Pairwise (fun c d => c.1 < d.1)) (a b : Nat) (v : Byte) :
    Memory.read font (Memory.write font m a v) b = if b = a then v else Memory.read font m b := by
  induction m with
  | nil =>
    by_cases hv : v = resetByte font a <;> by_cases hb : b = a
    · subst hb; simp [Memory.write, Memory.read, hv]
    · simp [Memory.write, Memory.read, hv, hb]
    · subst hb; simp [Memory.write, Memory.read, hv]
    · simp [Memory.write, Memory.read, hv, hb, Ne.symm hb]
  | cons c rest ih =>
    obtain ⟨k, w⟩ := c
    have hrest := (List.pairwise_cons.mp hm).2
    have hlow : ∀ c ∈ rest, k < c.1 := (List.pairwise_cons.mp hm).1
    have below : ∀ x, x < k → Memory.read font ((k, w) :: rest) x = resetByte font x := fun x hx =>
      Memory.read_of_lt font _ x (by
        intro c hc
        rcases List.mem_cons.mp hc with rfl | hc
        · exact hx
        · exact Nat.lt_trans hx (hlow c hc))
    rcases Nat.lt_trichotomy a k with hak | rfl | hka
    · by_cases hv : v = resetByte font a
      · rw [Memory.write, if_pos hak, if_pos hv]
        split
        · next hb => subst hb; rw [below _ hak, hv]
        · rfl
      · rw [Memory.write, if_pos hak, if_neg hv]
        by_cases hb : b = a
        · simp [Memory.read, hb]
        · rw [if_neg hb]; conv_lhs => rw [Memory.read, if_neg (Ne.symm hb)]
    · by_cases hv : v = resetByte font a
      · rw [Memory.write, if_neg (Nat.lt_irrefl _), if_pos rfl, if_pos hv]
        by_cases hb : b = a
        · subst hb; rw [if_pos rfl, Memory.read_of_lt font rest b hlow, hv]
        · simp [Memory.read, hb, Ne.symm hb]
      · rw [Memory.write, if_neg (Nat.lt_irrefl _), if_pos rfl, if_neg hv]
        by_cases hb : b = a
        · simp [Memory.read, hb]
        · simp [Memory.read, hb, Ne.symm hb]
    · rw [Memory.write, if_neg (by omega), if_neg (by omega)]
      by_cases hkb : k = b
      · simp [Memory.read, hkb, show b ≠ a by omega]
      · simp [Memory.read, hkb, ih hrest]

/-- Every entry after a write is the written one or was there before. -/
theorem Memory.mem_write (font : Font) (m : Memory) (a : Nat) (v : Byte) (c : Host.Cell)
    (h : c ∈ Memory.write font m a v) : (c = (a, v) ∧ v ≠ resetByte font a) ∨ c ∈ m := by
  induction m with
  | nil =>
    rw [Memory.write] at h
    split at h
    · simp at h
    · next hv => exact .inl ⟨by simpa using h, hv⟩
  | cons d rest ih =>
    obtain ⟨k, w⟩ := d
    rw [Memory.write] at h
    split at h
    · split at h
      · exact .inr h
      · next hv =>
        rcases List.mem_cons.mp h with rfl | h
        · exact .inl ⟨rfl, hv⟩
        · exact .inr h
    · split at h
      · split at h
        · exact .inr (List.mem_cons_of_mem _ h)
        · next hv =>
          rcases List.mem_cons.mp h with rfl | h
          · exact .inl ⟨rfl, hv⟩
          · exact .inr (List.mem_cons_of_mem _ h)
      · rcases List.mem_cons.mp h with rfl | h
        · exact .inr (by simp)
        · exact (ih h).imp id (List.mem_cons_of_mem _)

/-- A write keeps the addresses strictly rising. -/
theorem Memory.pairwise_write (font : Font) (m : Memory) (a : Nat) (v : Byte)
    (hm : m.Pairwise (fun c d => c.1 < d.1)) :
    (Memory.write font m a v).Pairwise (fun c d => c.1 < d.1) := by
  induction m with
  | nil => rw [Memory.write]; split <;> simp
  | cons d rest ih =>
    obtain ⟨k, w⟩ := d
    have hrest := (List.pairwise_cons.mp hm).2
    have hlow : ∀ c ∈ rest, k < c.1 := (List.pairwise_cons.mp hm).1
    rw [Memory.write]
    split
    · next hak =>
      split
      · exact hm
      · refine List.pairwise_cons.mpr ⟨fun c hc => ?_, hm⟩
        rcases List.mem_cons.mp hc with rfl | hc
        · exact hak
        · exact Nat.lt_trans hak (hlow c hc)
    · next hak =>
      split
      · next hk =>
        subst hk
        split
        · exact hrest
        · exact List.pairwise_cons.mpr ⟨hlow, hrest⟩
      · next hk =>
        refine List.pairwise_cons.mpr ⟨fun c hc => ?_, ih hrest⟩
        rcases Memory.mem_write font rest a v c hc with ⟨rfl, -⟩ | hc
        · exact show k < a by omega
        · exact hlow c hc

/-- A write below 0x1000 keeps the canonical form. -/
theorem Memory.wf_write (font : Font) (m : Memory) (a : Nat) (v : Byte) (ha : a < 0x1000) (hm : Memory.wf font m) :
    Memory.wf font (Memory.write font m a v) := by
  refine ⟨Memory.pairwise_write font m a v hm.1, fun c hc => ?_⟩
  rcases Memory.mem_write font m a v c hc with ⟨rfl, hv⟩ | hc
  · exact ⟨ha, hv⟩
  · exact hm.2 c hc

/-- Empty memory, which State.reset has, is in canonical form. -/
theorem Memory.wf_nil (font : Font) : Memory.wf font [] :=
  ⟨List.Pairwise.nil, fun _ hc => absurd hc List.not_mem_nil⟩

theorem State.reset_mem_wf : Memory.wf State.reset.params.font State.reset.mem := Memory.wf_nil _

/-- `MemWrite` keeps the canonical form. -/
theorem State.writeByte_wf (s : State) (a : Nat) (v : Byte) (h : Memory.wf s.params.font s.mem) :
    Memory.wf (s.writeByte a v).params.font (s.writeByte a v).mem :=
  Memory.wf_write _ _ _ _ (Nat.mod_lt _ (by decide)) h

/-- `MemRead` after `MemWrite`, both addresses mod 0x1000 (R41, R47). -/
theorem State.readByte_writeByte (s : State) (h : Memory.wf s.params.font s.mem) (a b : Nat) (v : Byte) :
    (s.writeByte a v).readByte b = if b % 0x1000 = a % 0x1000 then v else s.readByte b :=
  Memory.read_write s.params.font s.mem h.1 (a % 0x1000) (b % 0x1000) v

/-- A read takes its address mod 0x1000 (R41). -/
@[simp] theorem State.readByte_mod (s : State) (a : Nat) : s.readByte (a % 0x1000) = s.readByte a := by
  simp [State.readByte]

/-- Storing bytes changes the memory and nothing else. -/
theorem State.storeBytes_eq (s : State) (a : Nat) (bytes : List Byte) :
    s.storeBytes a bytes = { s with mem := (s.storeBytes a bytes).mem } := by
  induction bytes generalizing s a with
  | nil => rfl
  | cons v rest ih =>
    rw [State.storeBytes, ih]
    rfl

/-- Storing bytes keeps the canonical form. -/
theorem State.storeBytes_wf (s : State) (a : Nat) (bytes : List Byte) (h : Memory.wf s.params.font s.mem) :
    Memory.wf s.params.font (s.storeBytes a bytes).mem := by
  induction bytes generalizing s a with
  | nil => exact h
  | cons v rest ih => exact ih (s.writeByte a v) (a + 1) (s.writeByte_wf a v h)

/-- Outside the stored addresses a byte reads as before. -/
theorem State.readByte_storeBytes_of_outside (s : State) (a b : Nat) (bytes : List Byte)
    (h : Memory.wf s.params.font s.mem) (hb : ∀ k < bytes.length, b % 0x1000 ≠ (a + k) % 0x1000) :
    (s.storeBytes a bytes).readByte b = s.readByte b := by
  induction bytes generalizing s a with
  | nil => rfl
  | cons v rest ih =>
    rw [State.storeBytes, ih _ _ (s.writeByte_wf a v h), s.readByte_writeByte h, if_neg]
    · simpa using hb 0 (by simp)
    · intro k hk
      have := hb (k + 1) (by simpa using hk)
      rwa [show a + (k + 1) = a + 1 + k by omega] at this

/-- Of at most 4096 bytes stored, the k-th reads back at the k-th address. -/
theorem State.readByte_storeBytes (s : State) (a k : Nat) (bytes : List Byte) (h : Memory.wf s.params.font s.mem)
    (hlen : bytes.length ≤ 0x1000) (hk : k < bytes.length) :
    (s.storeBytes a bytes).readByte (a + k) = bytes[k] := by
  induction bytes generalizing s a k with
  | nil => simp at hk
  | cons v rest ih =>
    have hlen' : rest.length + 1 ≤ 0x1000 := hlen
    have hwf := s.writeByte_wf a v h
    rw [State.storeBytes]
    cases k with
    | zero =>
      rw [State.readByte_storeBytes_of_outside _ _ _ _ hwf, s.readByte_writeByte h]
      · simp
      · intro j hj; omega
    | succ k =>
      have := ih (s.writeByte a v) (a + 1) k hwf (by omega) (by simpa using hk)
      rw [show a + (k + 1) = a + 1 + k by omega, this]
      simp

end Sys2Proof.Machine
end

