-- ==== Sys2Proof/Laws/State.lean ====
section
/-! SUPPORT. One lemma per field per update of the state, and what a read of a register or a byte gives after each
update, so that no later proof unfolds a record update. -/

namespace Sys2Proof.Machine

/-! ### Updates that are no record update by definition -/

theorem State.loadRegs_eq (s : State) (b n : Nat) : s.loadRegs b n = { s with V := (s.loadRegs b n).V } := by
  induction n with
  | zero => rfl
  | succ n ih => rw [State.loadRegs, ih]; rfl

theorem State.setFlagAndResult_eq (s : State) (x : Nibble) (b : Bool) (v : Byte) :
    s.setFlagAndResult x b v = { s with V := (s.setFlagAndResult x b v).V } := by
  unfold State.setFlagAndResult
  split <;> rfl

theorem State.finishStep_eq (s : State) :
    s.finishStep = { s with DT := s.finishStep.DT, ST := s.finishStep.ST } := by
  unfold State.finishStep
  repeat' split
  all_goals rfl

/-! ### One lemma per untouched field per update -/

@[simp] theorem State.setV_mem (s : State) (r : Nibble) (v : Byte) : (s.setV r v).mem = s.mem := rfl
@[simp] theorem State.setV_I (s : State) (r : Nibble) (v : Byte) : (s.setV r v).I = s.I := rfl
@[simp] theorem State.setV_pc (s : State) (r : Nibble) (v : Byte) : (s.setV r v).pc = s.pc := rfl
@[simp] theorem State.setV_stack (s : State) (r : Nibble) (v : Byte) : (s.setV r v).stack = s.stack := rfl
@[simp] theorem State.setV_SP (s : State) (r : Nibble) (v : Byte) : (s.setV r v).SP = s.SP := rfl
@[simp] theorem State.setV_DT (s : State) (r : Nibble) (v : Byte) : (s.setV r v).DT = s.DT := rfl
@[simp] theorem State.setV_ST (s : State) (r : Nibble) (v : Byte) : (s.setV r v).ST = s.ST := rfl
@[simp] theorem State.setV_grid (s : State) (r : Nibble) (v : Byte) : (s.setV r v).grid = s.grid := rfl
@[simp] theorem State.setV_key (s : State) (r : Nibble) (v : Byte) : (s.setV r v).key = s.key := rfl
@[simp] theorem State.setV_redraw (s : State) (r : Nibble) (v : Byte) : (s.setV r v).redraw = s.redraw := rfl
@[simp] theorem State.setV_halt (s : State) (r : Nibble) (v : Byte) : (s.setV r v).halt = s.halt := rfl
@[simp] theorem State.setV_draws (s : State) (r : Nibble) (v : Byte) : (s.setV r v).draws = s.draws := rfl
@[simp] theorem State.setV_params (s : State) (r : Nibble) (v : Byte) : (s.setV r v).params = s.params := rfl

@[simp] theorem State.setI_mem (s : State) (n : Nat) : (s.setI n).mem = s.mem := rfl
@[simp] theorem State.setI_V (s : State) (n : Nat) : (s.setI n).V = s.V := rfl
@[simp] theorem State.setI_pc (s : State) (n : Nat) : (s.setI n).pc = s.pc := rfl
@[simp] theorem State.setI_stack (s : State) (n : Nat) : (s.setI n).stack = s.stack := rfl
@[simp] theorem State.setI_SP (s : State) (n : Nat) : (s.setI n).SP = s.SP := rfl
@[simp] theorem State.setI_DT (s : State) (n : Nat) : (s.setI n).DT = s.DT := rfl
@[simp] theorem State.setI_ST (s : State) (n : Nat) : (s.setI n).ST = s.ST := rfl
@[simp] theorem State.setI_grid (s : State) (n : Nat) : (s.setI n).grid = s.grid := rfl
@[simp] theorem State.setI_key (s : State) (n : Nat) : (s.setI n).key = s.key := rfl
@[simp] theorem State.setI_redraw (s : State) (n : Nat) : (s.setI n).redraw = s.redraw := rfl
@[simp] theorem State.setI_halt (s : State) (n : Nat) : (s.setI n).halt = s.halt := rfl
@[simp] theorem State.setI_draws (s : State) (n : Nat) : (s.setI n).draws = s.draws := rfl
@[simp] theorem State.setI_params (s : State) (n : Nat) : (s.setI n).params = s.params := rfl

@[simp] theorem State.setPc_mem (s : State) (n : Nat) : (s.setPc n).mem = s.mem := rfl
@[simp] theorem State.setPc_V (s : State) (n : Nat) : (s.setPc n).V = s.V := rfl
@[simp] theorem State.setPc_I (s : State) (n : Nat) : (s.setPc n).I = s.I := rfl
@[simp] theorem State.setPc_stack (s : State) (n : Nat) : (s.setPc n).stack = s.stack := rfl
@[simp] theorem State.setPc_SP (s : State) (n : Nat) : (s.setPc n).SP = s.SP := rfl
@[simp] theorem State.setPc_DT (s : State) (n : Nat) : (s.setPc n).DT = s.DT := rfl
@[simp] theorem State.setPc_ST (s : State) (n : Nat) : (s.setPc n).ST = s.ST := rfl
@[simp] theorem State.setPc_grid (s : State) (n : Nat) : (s.setPc n).grid = s.grid := rfl
@[simp] theorem State.setPc_key (s : State) (n : Nat) : (s.setPc n).key = s.key := rfl
@[simp] theorem State.setPc_redraw (s : State) (n : Nat) : (s.setPc n).redraw = s.redraw := rfl
@[simp] theorem State.setPc_halt (s : State) (n : Nat) : (s.setPc n).halt = s.halt := rfl
@[simp] theorem State.setPc_draws (s : State) (n : Nat) : (s.setPc n).draws = s.draws := rfl
@[simp] theorem State.setPc_params (s : State) (n : Nat) : (s.setPc n).params = s.params := rfl

@[simp] theorem State.advance_mem (s : State) (k : Nat) : (s.advance k).mem = s.mem := rfl
@[simp] theorem State.advance_V (s : State) (k : Nat) : (s.advance k).V = s.V := rfl
@[simp] theorem State.advance_I (s : State) (k : Nat) : (s.advance k).I = s.I := rfl
@[simp] theorem State.advance_stack (s : State) (k : Nat) : (s.advance k).stack = s.stack := rfl
@[simp] theorem State.advance_SP (s : State) (k : Nat) : (s.advance k).SP = s.SP := rfl
@[simp] theorem State.advance_DT (s : State) (k : Nat) : (s.advance k).DT = s.DT := rfl
@[simp] theorem State.advance_ST (s : State) (k : Nat) : (s.advance k).ST = s.ST := rfl
@[simp] theorem State.advance_grid (s : State) (k : Nat) : (s.advance k).grid = s.grid := rfl
@[simp] theorem State.advance_key (s : State) (k : Nat) : (s.advance k).key = s.key := rfl
@[simp] theorem State.advance_redraw (s : State) (k : Nat) : (s.advance k).redraw = s.redraw := rfl
@[simp] theorem State.advance_halt (s : State) (k : Nat) : (s.advance k).halt = s.halt := rfl
@[simp] theorem State.advance_draws (s : State) (k : Nat) : (s.advance k).draws = s.draws := rfl
@[simp] theorem State.advance_params (s : State) (k : Nat) : (s.advance k).params = s.params := rfl

@[simp] theorem State.skipIf_mem (s : State) (c : Bool) : (s.skipIf c).mem = s.mem := rfl
@[simp] theorem State.skipIf_V (s : State) (c : Bool) : (s.skipIf c).V = s.V := rfl
@[simp] theorem State.skipIf_I (s : State) (c : Bool) : (s.skipIf c).I = s.I := rfl
@[simp] theorem State.skipIf_stack (s : State) (c : Bool) : (s.skipIf c).stack = s.stack := rfl
@[simp] theorem State.skipIf_SP (s : State) (c : Bool) : (s.skipIf c).SP = s.SP := rfl
@[simp] theorem State.skipIf_DT (s : State) (c : Bool) : (s.skipIf c).DT = s.DT := rfl
@[simp] theorem State.skipIf_ST (s : State) (c : Bool) : (s.skipIf c).ST = s.ST := rfl
@[simp] theorem State.skipIf_grid (s : State) (c : Bool) : (s.skipIf c).grid = s.grid := rfl
@[simp] theorem State.skipIf_key (s : State) (c : Bool) : (s.skipIf c).key = s.key := rfl
@[simp] theorem State.skipIf_redraw (s : State) (c : Bool) : (s.skipIf c).redraw = s.redraw := rfl
@[simp] theorem State.skipIf_halt (s : State) (c : Bool) : (s.skipIf c).halt = s.halt := rfl
@[simp] theorem State.skipIf_draws (s : State) (c : Bool) : (s.skipIf c).draws = s.draws := rfl
@[simp] theorem State.skipIf_params (s : State) (c : Bool) : (s.skipIf c).params = s.params := rfl

@[simp] theorem State.writeByte_V (s : State) (a : Nat) (v : Byte) : (s.writeByte a v).V = s.V := rfl
@[simp] theorem State.writeByte_I (s : State) (a : Nat) (v : Byte) : (s.writeByte a v).I = s.I := rfl
@[simp] theorem State.writeByte_pc (s : State) (a : Nat) (v : Byte) : (s.writeByte a v).pc = s.pc := rfl
@[simp] theorem State.writeByte_stack (s : State) (a : Nat) (v : Byte) : (s.writeByte a v).stack = s.stack := rfl
@[simp] theorem State.writeByte_SP (s : State) (a : Nat) (v : Byte) : (s.writeByte a v).SP = s.SP := rfl
@[simp] theorem State.writeByte_DT (s : State) (a : Nat) (v : Byte) : (s.writeByte a v).DT = s.DT := rfl
@[simp] theorem State.writeByte_ST (s : State) (a : Nat) (v : Byte) : (s.writeByte a v).ST = s.ST := rfl
@[simp] theorem State.writeByte_grid (s : State) (a : Nat) (v : Byte) : (s.writeByte a v).grid = s.grid := rfl
@[simp] theorem State.writeByte_key (s : State) (a : Nat) (v : Byte) : (s.writeByte a v).key = s.key := rfl
@[simp] theorem State.writeByte_redraw (s : State) (a : Nat) (v : Byte) : (s.writeByte a v).redraw = s.redraw := rfl
@[simp] theorem State.writeByte_halt (s : State) (a : Nat) (v : Byte) : (s.writeByte a v).halt = s.halt := rfl
@[simp] theorem State.writeByte_draws (s : State) (a : Nat) (v : Byte) : (s.writeByte a v).draws = s.draws := rfl
@[simp] theorem State.writeByte_params (s : State) (a : Nat) (v : Byte) : (s.writeByte a v).params = s.params := rfl

@[simp] theorem State.storeBytes_V (s : State) (a : Nat) (l : List Byte) : (s.storeBytes a l).V = s.V := by rw [State.storeBytes_eq]
@[simp] theorem State.storeBytes_I (s : State) (a : Nat) (l : List Byte) : (s.storeBytes a l).I = s.I := by rw [State.storeBytes_eq]
@[simp] theorem State.storeBytes_pc (s : State) (a : Nat) (l : List Byte) : (s.storeBytes a l).pc = s.pc := by rw [State.storeBytes_eq]
@[simp] theorem State.storeBytes_stack (s : State) (a : Nat) (l : List Byte) : (s.storeBytes a l).stack = s.stack := by rw [State.storeBytes_eq]
@[simp] theorem State.storeBytes_SP (s : State) (a : Nat) (l : List Byte) : (s.storeBytes a l).SP = s.SP := by rw [State.storeBytes_eq]
@[simp] theorem State.storeBytes_DT (s : State) (a : Nat) (l : List Byte) : (s.storeBytes a l).DT = s.DT := by rw [State.storeBytes_eq]
@[simp] theorem State.storeBytes_ST (s : State) (a : Nat) (l : List Byte) : (s.storeBytes a l).ST = s.ST := by rw [State.storeBytes_eq]
@[simp] theorem State.storeBytes_grid (s : State) (a : Nat) (l : List Byte) : (s.storeBytes a l).grid = s.grid := by rw [State.storeBytes_eq]
@[simp] theorem State.storeBytes_key (s : State) (a : Nat) (l : List Byte) : (s.storeBytes a l).key = s.key := by rw [State.storeBytes_eq]
@[simp] theorem State.storeBytes_redraw (s : State) (a : Nat) (l : List Byte) : (s.storeBytes a l).redraw = s.redraw := by rw [State.storeBytes_eq]
@[simp] theorem State.storeBytes_halt (s : State) (a : Nat) (l : List Byte) : (s.storeBytes a l).halt = s.halt := by rw [State.storeBytes_eq]
@[simp] theorem State.storeBytes_draws (s : State) (a : Nat) (l : List Byte) : (s.storeBytes a l).draws = s.draws := by rw [State.storeBytes_eq]
@[simp] theorem State.storeBytes_params (s : State) (a : Nat) (l : List Byte) : (s.storeBytes a l).params = s.params := by rw [State.storeBytes_eq]

@[simp] theorem State.decrementTimers_mem (s : State) : s.decrementTimers.mem = s.mem := rfl
@[simp] theorem State.decrementTimers_V (s : State) : s.decrementTimers.V = s.V := rfl
@[simp] theorem State.decrementTimers_I (s : State) : s.decrementTimers.I = s.I := rfl
@[simp] theorem State.decrementTimers_pc (s : State) : s.decrementTimers.pc = s.pc := rfl
@[simp] theorem State.decrementTimers_stack (s : State) : s.decrementTimers.stack = s.stack := rfl
@[simp] theorem State.decrementTimers_SP (s : State) : s.decrementTimers.SP = s.SP := rfl
@[simp] theorem State.decrementTimers_grid (s : State) : s.decrementTimers.grid = s.grid := rfl
@[simp] theorem State.decrementTimers_key (s : State) : s.decrementTimers.key = s.key := rfl
@[simp] theorem State.decrementTimers_redraw (s : State) : s.decrementTimers.redraw = s.redraw := rfl
@[simp] theorem State.decrementTimers_halt (s : State) : s.decrementTimers.halt = s.halt := rfl
@[simp] theorem State.decrementTimers_draws (s : State) : s.decrementTimers.draws = s.draws := rfl
@[simp] theorem State.decrementTimers_params (s : State) : s.decrementTimers.params = s.params := rfl

@[simp] theorem State.raiseFatal_mem (s : State) (k : Word → Word → Fault) (w : Word) : (s.raiseFatal k w).mem = s.mem := rfl
@[simp] theorem State.raiseFatal_V (s : State) (k : Word → Word → Fault) (w : Word) : (s.raiseFatal k w).V = s.V := rfl
@[simp] theorem State.raiseFatal_I (s : State) (k : Word → Word → Fault) (w : Word) : (s.raiseFatal k w).I = s.I := rfl
@[simp] theorem State.raiseFatal_pc (s : State) (k : Word → Word → Fault) (w : Word) : (s.raiseFatal k w).pc = s.pc := rfl
@[simp] theorem State.raiseFatal_stack (s : State) (k : Word → Word → Fault) (w : Word) : (s.raiseFatal k w).stack = s.stack := rfl
@[simp] theorem State.raiseFatal_SP (s : State) (k : Word → Word → Fault) (w : Word) : (s.raiseFatal k w).SP = s.SP := rfl
@[simp] theorem State.raiseFatal_DT (s : State) (k : Word → Word → Fault) (w : Word) : (s.raiseFatal k w).DT = s.DT := rfl
@[simp] theorem State.raiseFatal_ST (s : State) (k : Word → Word → Fault) (w : Word) : (s.raiseFatal k w).ST = s.ST := rfl
@[simp] theorem State.raiseFatal_grid (s : State) (k : Word → Word → Fault) (w : Word) : (s.raiseFatal k w).grid = s.grid := rfl
@[simp] theorem State.raiseFatal_key (s : State) (k : Word → Word → Fault) (w : Word) : (s.raiseFatal k w).key = s.key := rfl
@[simp] theorem State.raiseFatal_redraw (s : State) (k : Word → Word → Fault) (w : Word) : (s.raiseFatal k w).redraw = s.redraw := rfl
@[simp] theorem State.raiseFatal_draws (s : State) (k : Word → Word → Fault) (w : Word) : (s.raiseFatal k w).draws = s.draws := rfl
@[simp] theorem State.raiseFatal_params (s : State) (k : Word → Word → Fault) (w : Word) : (s.raiseFatal k w).params = s.params := rfl

@[simp] theorem State.loadRegs_mem (s : State) (b n : Nat) : (s.loadRegs b n).mem = s.mem := by rw [State.loadRegs_eq]
@[simp] theorem State.loadRegs_I (s : State) (b n : Nat) : (s.loadRegs b n).I = s.I := by rw [State.loadRegs_eq]
@[simp] theorem State.loadRegs_pc (s : State) (b n : Nat) : (s.loadRegs b n).pc = s.pc := by rw [State.loadRegs_eq]
@[simp] theorem State.loadRegs_stack (s : State) (b n : Nat) : (s.loadRegs b n).stack = s.stack := by rw [State.loadRegs_eq]
@[simp] theorem State.loadRegs_SP (s : State) (b n : Nat) : (s.loadRegs b n).SP = s.SP := by rw [State.loadRegs_eq]
@[simp] theorem State.loadRegs_DT (s : State) (b n : Nat) : (s.loadRegs b n).DT = s.DT := by rw [State.loadRegs_eq]
@[simp] theorem State.loadRegs_ST (s : State) (b n : Nat) : (s.loadRegs b n).ST = s.ST := by rw [State.loadRegs_eq]
@[simp] theorem State.loadRegs_grid (s : State) (b n : Nat) : (s.loadRegs b n).grid = s.grid := by rw [State.loadRegs_eq]
@[simp] theorem State.loadRegs_key (s : State) (b n : Nat) : (s.loadRegs b n).key = s.key := by rw [State.loadRegs_eq]
@[simp] theorem State.loadRegs_redraw (s : State) (b n : Nat) : (s.loadRegs b n).redraw = s.redraw := by rw [State.loadRegs_eq]
@[simp] theorem State.loadRegs_halt (s : State) (b n : Nat) : (s.loadRegs b n).halt = s.halt := by rw [State.loadRegs_eq]
@[simp] theorem State.loadRegs_draws (s : State) (b n : Nat) : (s.loadRegs b n).draws = s.draws := by rw [State.loadRegs_eq]
@[simp] theorem State.loadRegs_params (s : State) (b n : Nat) : (s.loadRegs b n).params = s.params := by rw [State.loadRegs_eq]

@[simp] theorem State.setVF_mem (s : State) (b : Bool) : (s.setVF b).mem = s.mem := rfl
@[simp] theorem State.setVF_I (s : State) (b : Bool) : (s.setVF b).I = s.I := rfl
@[simp] theorem State.setVF_pc (s : State) (b : Bool) : (s.setVF b).pc = s.pc := rfl
@[simp] theorem State.setVF_stack (s : State) (b : Bool) : (s.setVF b).stack = s.stack := rfl
@[simp] theorem State.setVF_SP (s : State) (b : Bool) : (s.setVF b).SP = s.SP := rfl
@[simp] theorem State.setVF_DT (s : State) (b : Bool) : (s.setVF b).DT = s.DT := rfl
@[simp] theorem State.setVF_ST (s : State) (b : Bool) : (s.setVF b).ST = s.ST := rfl
@[simp] theorem State.setVF_grid (s : State) (b : Bool) : (s.setVF b).grid = s.grid := rfl
@[simp] theorem State.setVF_key (s : State) (b : Bool) : (s.setVF b).key = s.key := rfl
@[simp] theorem State.setVF_redraw (s : State) (b : Bool) : (s.setVF b).redraw = s.redraw := rfl
@[simp] theorem State.setVF_halt (s : State) (b : Bool) : (s.setVF b).halt = s.halt := rfl
@[simp] theorem State.setVF_draws (s : State) (b : Bool) : (s.setVF b).draws = s.draws := rfl
@[simp] theorem State.setVF_params (s : State) (b : Bool) : (s.setVF b).params = s.params := rfl

@[simp] theorem State.setFlagAndResult_mem (s : State) (x : Nibble) (b : Bool) (v : Byte) : (s.setFlagAndResult x b v).mem = s.mem := by rw [State.setFlagAndResult_eq]
@[simp] theorem State.setFlagAndResult_I (s : State) (x : Nibble) (b : Bool) (v : Byte) : (s.setFlagAndResult x b v).I = s.I := by rw [State.setFlagAndResult_eq]
@[simp] theorem State.setFlagAndResult_pc (s : State) (x : Nibble) (b : Bool) (v : Byte) : (s.setFlagAndResult x b v).pc = s.pc := by rw [State.setFlagAndResult_eq]
@[simp] theorem State.setFlagAndResult_stack (s : State) (x : Nibble) (b : Bool) (v : Byte) : (s.setFlagAndResult x b v).stack = s.stack := by rw [State.setFlagAndResult_eq]
@[simp] theorem State.setFlagAndResult_SP (s : State) (x : Nibble) (b : Bool) (v : Byte) : (s.setFlagAndResult x b v).SP = s.SP := by rw [State.setFlagAndResult_eq]
@[simp] theorem State.setFlagAndResult_DT (s : State) (x : Nibble) (b : Bool) (v : Byte) : (s.setFlagAndResult x b v).DT = s.DT := by rw [State.setFlagAndResult_eq]
@[simp] theorem State.setFlagAndResult_ST (s : State) (x : Nibble) (b : Bool) (v : Byte) : (s.setFlagAndResult x b v).ST = s.ST := by rw [State.setFlagAndResult_eq]
@[simp] theorem State.setFlagAndResult_grid (s : State) (x : Nibble) (b : Bool) (v : Byte) : (s.setFlagAndResult x b v).grid = s.grid := by rw [State.setFlagAndResult_eq]
@[simp] theorem State.setFlagAndResult_key (s : State) (x : Nibble) (b : Bool) (v : Byte) : (s.setFlagAndResult x b v).key = s.key := by rw [State.setFlagAndResult_eq]
@[simp] theorem State.setFlagAndResult_redraw (s : State) (x : Nibble) (b : Bool) (v : Byte) : (s.setFlagAndResult x b v).redraw = s.redraw := by rw [State.setFlagAndResult_eq]
@[simp] theorem State.setFlagAndResult_halt (s : State) (x : Nibble) (b : Bool) (v : Byte) : (s.setFlagAndResult x b v).halt = s.halt := by rw [State.setFlagAndResult_eq]
@[simp] theorem State.setFlagAndResult_draws (s : State) (x : Nibble) (b : Bool) (v : Byte) : (s.setFlagAndResult x b v).draws = s.draws := by rw [State.setFlagAndResult_eq]
@[simp] theorem State.setFlagAndResult_params (s : State) (x : Nibble) (b : Bool) (v : Byte) : (s.setFlagAndResult x b v).params = s.params := by rw [State.setFlagAndResult_eq]

@[simp] theorem State.finishStep_mem (s : State) : s.finishStep.mem = s.mem := by rw [State.finishStep_eq]
@[simp] theorem State.finishStep_V (s : State) : s.finishStep.V = s.V := by rw [State.finishStep_eq]
@[simp] theorem State.finishStep_I (s : State) : s.finishStep.I = s.I := by rw [State.finishStep_eq]
@[simp] theorem State.finishStep_pc (s : State) : s.finishStep.pc = s.pc := by rw [State.finishStep_eq]
@[simp] theorem State.finishStep_stack (s : State) : s.finishStep.stack = s.stack := by rw [State.finishStep_eq]
@[simp] theorem State.finishStep_SP (s : State) : s.finishStep.SP = s.SP := by rw [State.finishStep_eq]
@[simp] theorem State.finishStep_grid (s : State) : s.finishStep.grid = s.grid := by rw [State.finishStep_eq]
@[simp] theorem State.finishStep_key (s : State) : s.finishStep.key = s.key := by rw [State.finishStep_eq]
@[simp] theorem State.finishStep_redraw (s : State) : s.finishStep.redraw = s.redraw := by rw [State.finishStep_eq]
@[simp] theorem State.finishStep_halt (s : State) : s.finishStep.halt = s.halt := by rw [State.finishStep_eq]
@[simp] theorem State.finishStep_draws (s : State) : s.finishStep.draws = s.draws := by rw [State.finishStep_eq]
@[simp] theorem State.finishStep_params (s : State) : s.finishStep.params = s.params := by rw [State.finishStep_eq]

/-! ### The touched fields of the plain updates -/

@[simp] theorem State.setI_I (s : State) (n : Nat) : (s.setI n).I = addr12 n := rfl
@[simp] theorem State.setPc_pc (s : State) (n : Nat) : (s.setPc n).pc = addr12 n := rfl
@[simp] theorem State.advance_pc (s : State) (k : Nat) : (s.advance k).pc = addr12 (s.pc.toNat + k) := rfl
@[simp] theorem State.skipIf_pc (s : State) (c : Bool) :
    (s.skipIf c).pc = addr12 (s.pc.toNat + if c then 4 else 2) := rfl
@[simp] theorem State.decrementTimers_DT (s : State) : s.decrementTimers.DT = countDown s.DT := rfl
@[simp] theorem State.decrementTimers_ST (s : State) : s.decrementTimers.ST = countDown s.ST := rfl
@[simp] theorem State.raiseFatal_halt (s : State) (k : Word → Word → Fault) (w : Word) :
    (s.raiseFatal k w).halt = some (k s.pc w) := rfl

/-! ### Reading a register, a byte or a key after an update -/

@[simp] theorem State.readByte_setV (s : State) (r : Nibble) (v : Byte) (q : Nat) : (s.setV r v).readByte q = s.readByte q := rfl
@[simp] theorem State.getV_setI (s : State) (n : Nat) (q : Nibble) : (s.setI n).getV q = s.getV q := rfl
@[simp] theorem State.readByte_setI (s : State) (n : Nat) (q : Nat) : (s.setI n).readByte q = s.readByte q := rfl
@[simp] theorem State.getV_setPc (s : State) (n : Nat) (q : Nibble) : (s.setPc n).getV q = s.getV q := rfl
@[simp] theorem State.readByte_setPc (s : State) (n : Nat) (q : Nat) : (s.setPc n).readByte q = s.readByte q := rfl
@[simp] theorem State.getV_advance (s : State) (k : Nat) (q : Nibble) : (s.advance k).getV q = s.getV q := rfl
@[simp] theorem State.readByte_advance (s : State) (k : Nat) (q : Nat) : (s.advance k).readByte q = s.readByte q := rfl
@[simp] theorem State.getV_skipIf (s : State) (c : Bool) (q : Nibble) : (s.skipIf c).getV q = s.getV q := rfl
@[simp] theorem State.readByte_skipIf (s : State) (c : Bool) (q : Nat) : (s.skipIf c).readByte q = s.readByte q := rfl
@[simp] theorem State.getV_writeByte (s : State) (a : Nat) (v : Byte) (q : Nibble) : (s.writeByte a v).getV q = s.getV q := rfl
@[simp] theorem State.getV_storeBytes (s : State) (a : Nat) (l : List Byte) (q : Nibble) : (s.storeBytes a l).getV q = s.getV q := by simp [State.getV]
@[simp] theorem State.getV_decrementTimers (s : State) (q : Nibble) : s.decrementTimers.getV q = s.getV q := rfl
@[simp] theorem State.readByte_decrementTimers (s : State) (q : Nat) : s.decrementTimers.readByte q = s.readByte q := rfl
@[simp] theorem State.getV_raiseFatal (s : State) (k : Word → Word → Fault) (w : Word) (q : Nibble) : (s.raiseFatal k w).getV q = s.getV q := rfl
@[simp] theorem State.readByte_raiseFatal (s : State) (k : Word → Word → Fault) (w : Word) (q : Nat) : (s.raiseFatal k w).readByte q = s.readByte q := rfl
@[simp] theorem State.readByte_loadRegs (s : State) (b n : Nat) (q : Nat) : (s.loadRegs b n).readByte q = s.readByte q := by simp [State.readByte]
@[simp] theorem State.readByte_setVF (s : State) (b : Bool) (q : Nat) : (s.setVF b).readByte q = s.readByte q := rfl
@[simp] theorem State.readByte_setFlagAndResult (s : State) (x : Nibble) (b : Bool) (v : Byte) (q : Nat) : (s.setFlagAndResult x b v).readByte q = s.readByte q := by simp [State.readByte]
@[simp] theorem State.getV_finishStep (s : State) (q : Nibble) : s.finishStep.getV q = s.getV q := by simp [State.getV]
@[simp] theorem State.readByte_finishStep (s : State) (q : Nat) : s.finishStep.readByte q = s.readByte q := by simp [State.readByte]

@[simp] theorem State.getV_setV (s : State) (x r : Nibble) (v : Byte) :
    (s.setV x v).getV r = if r = x then v else s.getV r := by
  simp only [State.getV, State.setV, Vector.getElem_set]
  by_cases h : r = x
  · simp [h]
  · have : x.toNat ≠ r.toNat := fun h' => h (BitVec.eq_of_toNat_eq h'.symm)
    simp [h, this]

@[simp] theorem State.getV_setVF (s : State) (r : Nibble) (b : Bool) :
    (s.setVF b).getV r = if r = 0xF then flagByte b else s.getV r := by
  simp [State.setVF, vfIndex]

/-- R100: for x other than VF both orders agree; for x = VF the parameter VF_ORDER decides. -/
theorem State.getV_setFlagAndResult (s : State) (x r : Nibble) (b : Bool) (v : Byte) :
    (s.setFlagAndResult x b v).getV r =
      match s.params.vfOrder with
      | .flagThenResult => if r = x then v else if r = 0xF then flagByte b else s.getV r
      | .resultThenFlag => if r = 0xF then flagByte b else if r = x then v else s.getV r := by
  cases h : s.params.vfOrder <;> simp [State.setFlagAndResult, h]

/-- Two states with the same sixteen registers have the same register vector. -/
theorem State.V_eq_of_getV (s t : State) (h : ∀ r, t.getV r = s.getV r) : t.V = s.V := by
  apply Vector.ext
  intro i hi
  have := h (BitVec.ofNat 4 i)
  have e : i % 16 = i := Nat.mod_eq_of_lt hi
  simpa [State.getV, e] using this

/-- Register k of a loaded block comes from memory below the count, and is unchanged from it on (R120). -/
theorem State.getV_loadRegs (s : State) (b n : Nat) (hn : n ≤ 16) (r : Nibble) :
    (s.loadRegs b n).getV r = if r.toNat < n then s.readByte (b + r.toNat) else s.getV r := by
  induction n with
  | zero => simp [State.loadRegs]
  | succ n ih =>
    simp only [State.loadRegs, State.getV_setV, State.readByte_loadRegs]
    rw [ih (by omega)]
    by_cases h : r = BitVec.ofNat 4 n
    · have : r.toNat = n := by rw [h]; simp; omega
      simp [h, show n % 16 = n by omega]
    · have : r.toNat ≠ n := fun h' => h (BitVec.eq_of_toNat_eq (by simp [h']; omega))
      rw [if_neg h]
      by_cases h2 : r.toNat < n
      · simp [h2, show r.toNat < n + 1 by omega]
      · simp [h2, show ¬ r.toNat < n + 1 by omega]

end Sys2Proof.Machine
end

