-- ==== Sys2Proof/Laws/Ops.lean ====
section
/-! SUPPORT. One lemma per shared operation that says everything it can do. -/

namespace Sys2Proof.Machine

/-- An address register value is the number mod 0x1000 (R17, R21). -/
@[simp] theorem addr12_toNat (n : Nat) : (addr12 n).toNat = n % 0x1000 := by
  simp only [addr12, BitVec.toNat_ofNat]
  omega

theorem addr12_le (n : Nat) : (addr12 n).toNat ≤ 0xFFF := by
  rw [addr12_toNat]
  omega

/-- Everything push can do (R87). -/
theorem State.push_cases (s : State) (a : Word) :
    (s.SP.val = 16 ∧ s.push a = none) ∨
    (∃ h : s.SP.val < 16, s.push a =
      some { s with stack := s.stack.set s.SP.val a h, SP := ⟨s.SP.val + 1, by omega⟩ }) := by
  by_cases h : s.SP.val < 16
  · exact .inr ⟨h, by simp [State.push, h]⟩
  · exact .inl ⟨by omega, by simp [State.push, h]⟩

/-- Everything pop can do (R88). -/
theorem State.pop_cases (s : State) :
    (s.SP.val = 0 ∧ s.pop = none) ∨
    (∃ h : 0 < s.SP.val, s.pop =
      some (s.stack[s.SP.val - 1]'(by omega), { s with SP := ⟨s.SP.val - 1, by omega⟩ })) := by
  by_cases h : 0 < s.SP.val
  · exact .inr ⟨h, by simp [State.pop, h]⟩
  · exact .inl ⟨by omega, by simp [State.pop, h]⟩

/-- Everything the key index can be (R125). -/
theorem keyIndex_cases (policy : KeyIndexPolicy) (v : Byte) :
    (keyIndex policy v = some (v.extractLsb' 0 4) ∧ (v.toNat < 16 ∨ policy = .lowNibble)) ∨
    (keyIndex policy v = none ∧ 16 ≤ v.toNat ∧ policy = .fault) := by
  unfold keyIndex
  by_cases h : v.toNat < 16
  · simp [h]
  · cases policy
    · exact .inr ⟨by simp [h], by omega, rfl⟩
    · exact .inl ⟨by simp [h], .inr rfl⟩

/-- The decrement of R76 in numbers. -/
theorem countDown_toNat (t : Byte) : (countDown t).toNat = t.toNat - 1 := by
  unfold countDown
  split
  · next h => simp [h]
  · next h =>
    have : t.toNat ≠ 0 := fun h' => h (BitVec.eq_of_toNat_eq (by simpa using h'))
    have := t.isLt
    rw [BitVec.toNat_sub]
    simp
    omega

/-- Everything the end of a step can do (R76, R77). -/
theorem State.finishStep_cases (s : State) :
    (s.halt ≠ none ∧ s.finishStep = s) ∨
    (s.halt = none ∧ s.params.timerCoupling = .perStep ∧ s.finishStep = s.decrementTimers) ∨
    (s.halt = none ∧ s.params.timerCoupling = .externalTick ∧ s.finishStep = s) := by
  unfold State.finishStep
  cases hh : s.halt
  · cases hc : s.params.timerCoupling <;> simp
  · simp

/-- The word of two bytes in numbers (R42). -/
theorem wordOfBytes_toNat (hi lo : Byte) : (wordOfBytes hi lo).toNat = 256 * hi.toNat + lo.toNat := by
  unfold wordOfBytes
  have := lo.isLt
  rw [BitVec.toNat_append, ← Nat.shiftLeft_add_eq_or_of_lt this, Nat.shiftLeft_eq]
  omega

/-- The lowest pressed key: none pressed, or the least pressed index (R127). -/
theorem State.lowestPressed_cases (s : State) :
    (s.lowestPressed = none ∧ ∀ k : Nibble, s.getKey k = false) ∨
    (∃ k : Nibble, s.lowestPressed = some k.toNat ∧ s.getKey k = true ∧
      ∀ j : Nibble, j.toNat < k.toNat → s.getKey j = false) := by
  cases h : s.lowestPressed with
  | none =>
    refine .inl ⟨rfl, fun k => ?_⟩
    have := List.findIdx?_eq_none_iff.mp h (s.key[k.toNat]'k.isLt) (by simp)
    exact this
  | some n =>
    obtain ⟨hn, hp, hlow⟩ := List.findIdx?_eq_some_iff_getElem.mp h
    have hn' : n < 16 := by simpa using hn
    have e : (BitVec.ofNat 4 n).toNat = n := by simp; omega
    refine .inr ⟨BitVec.ofNat 4 n, by rw [e], ?_, fun j hj => ?_⟩
    · simpa [State.getKey, Nat.mod_eq_of_lt hn'] using hp
    · rw [e] at hj
      simpa [State.getKey] using hlow j.toNat hj

end Sys2Proof.Machine
end

