-- ==== Sys2Proof/Laws/PerInstr.lean ====
section
/-! SUPPORT. The family OperandsFit: every instruction's operands fit their fields (30_encoding.md R56, R61), and its row
is one of the opcode map's (R59). -/

namespace Sys2Proof.Laws.OperandsFit

/-- The instruction is well formed and its row stands in the opcode map. -/
def Statement (i : Instr) : Prop := i.wellFormed = true ∧ opcodeRow i ∈ opcodeMap

/-- A register operand fits. -/
theorem reg_fits (x : Nibble) : Operand.wellFormed (.reg x.toNat) = true := decide_eq_true x.isLt
/-- A byte operand fits. -/
theorem byte_fits (nn : Byte) : Operand.wellFormed (.byte nn.toNat) = true := decide_eq_true nn.isLt
/-- An address operand fits. -/
theorem addr_fits (nnn : Addr) : Operand.wellFormed (.addr nnn.toNat) = true := decide_eq_true nnn.isLt
/-- The implicit operand V0 of JP V0, addr fits. -/
theorem v0_fits : Operand.wellFormed (.reg 0) = true := rfl
/-- A count operand fits. -/
theorem nibble_fits (n : Nibble) : Operand.wellFormed (.nibble n.toNat) = true := decide_eq_true n.isLt

theorem cls : Statement (.cls) :=
  ⟨by simp [Instr.wellFormed, Instr.operands], by simp [opcodeMap, opcodeRow]⟩
theorem ret : Statement (.ret) :=
  ⟨by simp [Instr.wellFormed, Instr.operands], by simp [opcodeMap, opcodeRow]⟩
theorem jp (nnn : Addr) : Statement (.jp nnn) :=
  ⟨by simp [Instr.wellFormed, Instr.operands, addr_fits], by simp [opcodeMap, opcodeRow]⟩
theorem call (nnn : Addr) : Statement (.call nnn) :=
  ⟨by simp [Instr.wellFormed, Instr.operands, addr_fits], by simp [opcodeMap, opcodeRow]⟩
theorem seByte (x : Nibble) (nn : Byte) : Statement (.seByte x nn) :=
  ⟨by simp [Instr.wellFormed, Instr.operands, reg_fits, byte_fits], by simp [opcodeMap, opcodeRow]⟩
theorem sneByte (x : Nibble) (nn : Byte) : Statement (.sneByte x nn) :=
  ⟨by simp [Instr.wellFormed, Instr.operands, reg_fits, byte_fits], by simp [opcodeMap, opcodeRow]⟩
theorem seReg (x : Nibble) (y : Nibble) : Statement (.seReg x y) :=
  ⟨by simp [Instr.wellFormed, Instr.operands, reg_fits], by simp [opcodeMap, opcodeRow]⟩
theorem ldByte (x : Nibble) (nn : Byte) : Statement (.ldByte x nn) :=
  ⟨by simp [Instr.wellFormed, Instr.operands, reg_fits, byte_fits], by simp [opcodeMap, opcodeRow]⟩
theorem addByte (x : Nibble) (nn : Byte) : Statement (.addByte x nn) :=
  ⟨by simp [Instr.wellFormed, Instr.operands, reg_fits, byte_fits], by simp [opcodeMap, opcodeRow]⟩
theorem ldReg (x : Nibble) (y : Nibble) : Statement (.ldReg x y) :=
  ⟨by simp [Instr.wellFormed, Instr.operands, reg_fits], by simp [opcodeMap, opcodeRow]⟩
theorem orReg (x : Nibble) (y : Nibble) : Statement (.orReg x y) :=
  ⟨by simp [Instr.wellFormed, Instr.operands, reg_fits], by simp [opcodeMap, opcodeRow]⟩
theorem andReg (x : Nibble) (y : Nibble) : Statement (.andReg x y) :=
  ⟨by simp [Instr.wellFormed, Instr.operands, reg_fits], by simp [opcodeMap, opcodeRow]⟩
theorem xorReg (x : Nibble) (y : Nibble) : Statement (.xorReg x y) :=
  ⟨by simp [Instr.wellFormed, Instr.operands, reg_fits], by simp [opcodeMap, opcodeRow]⟩
theorem addReg (x : Nibble) (y : Nibble) : Statement (.addReg x y) :=
  ⟨by simp [Instr.wellFormed, Instr.operands, reg_fits], by simp [opcodeMap, opcodeRow]⟩
theorem subReg (x : Nibble) (y : Nibble) : Statement (.subReg x y) :=
  ⟨by simp [Instr.wellFormed, Instr.operands, reg_fits], by simp [opcodeMap, opcodeRow]⟩
theorem shr (x : Nibble) (y : Nibble) : Statement (.shr x y) :=
  ⟨by simp [Instr.wellFormed, Instr.operands, reg_fits], by simp [opcodeMap, opcodeRow]⟩
theorem subn (x : Nibble) (y : Nibble) : Statement (.subn x y) :=
  ⟨by simp [Instr.wellFormed, Instr.operands, reg_fits], by simp [opcodeMap, opcodeRow]⟩
theorem shl (x : Nibble) (y : Nibble) : Statement (.shl x y) :=
  ⟨by simp [Instr.wellFormed, Instr.operands, reg_fits], by simp [opcodeMap, opcodeRow]⟩
theorem sneReg (x : Nibble) (y : Nibble) : Statement (.sneReg x y) :=
  ⟨by simp [Instr.wellFormed, Instr.operands, reg_fits], by simp [opcodeMap, opcodeRow]⟩
theorem ldI (nnn : Addr) : Statement (.ldI nnn) :=
  ⟨by simp [Instr.wellFormed, Instr.operands, addr_fits], by simp [opcodeMap, opcodeRow]⟩
theorem jpV0 (nnn : Addr) : Statement (.jpV0 nnn) :=
  ⟨by simp [Instr.wellFormed, Instr.operands, addr_fits, v0_fits], by simp [opcodeMap, opcodeRow]⟩
theorem rnd (x : Nibble) (nn : Byte) : Statement (.rnd x nn) :=
  ⟨by simp [Instr.wellFormed, Instr.operands, reg_fits, byte_fits], by simp [opcodeMap, opcodeRow]⟩
theorem drw (x : Nibble) (y : Nibble) (n : Nibble) : Statement (.drw x y n) :=
  ⟨by simp [Instr.wellFormed, Instr.operands, reg_fits, nibble_fits], by simp [opcodeMap, opcodeRow]⟩
theorem skp (x : Nibble) : Statement (.skp x) :=
  ⟨by simp [Instr.wellFormed, Instr.operands, reg_fits], by simp [opcodeMap, opcodeRow]⟩
theorem sknp (x : Nibble) : Statement (.sknp x) :=
  ⟨by simp [Instr.wellFormed, Instr.operands, reg_fits], by simp [opcodeMap, opcodeRow]⟩
theorem ldVxDT (x : Nibble) : Statement (.ldVxDT x) :=
  ⟨by simp [Instr.wellFormed, Instr.operands, reg_fits], by simp [opcodeMap, opcodeRow]⟩
theorem ldVxK (x : Nibble) : Statement (.ldVxK x) :=
  ⟨by simp [Instr.wellFormed, Instr.operands, reg_fits], by simp [opcodeMap, opcodeRow]⟩
theorem ldDTVx (x : Nibble) : Statement (.ldDTVx x) :=
  ⟨by simp [Instr.wellFormed, Instr.operands, reg_fits], by simp [opcodeMap, opcodeRow]⟩
theorem ldSTVx (x : Nibble) : Statement (.ldSTVx x) :=
  ⟨by simp [Instr.wellFormed, Instr.operands, reg_fits], by simp [opcodeMap, opcodeRow]⟩
theorem addIVx (x : Nibble) : Statement (.addIVx x) :=
  ⟨by simp [Instr.wellFormed, Instr.operands, reg_fits], by simp [opcodeMap, opcodeRow]⟩
theorem ldFVx (x : Nibble) : Statement (.ldFVx x) :=
  ⟨by simp [Instr.wellFormed, Instr.operands, reg_fits], by simp [opcodeMap, opcodeRow]⟩
theorem ldBVx (x : Nibble) : Statement (.ldBVx x) :=
  ⟨by simp [Instr.wellFormed, Instr.operands, reg_fits], by simp [opcodeMap, opcodeRow]⟩
theorem ldMemVx (x : Nibble) : Statement (.ldMemVx x) :=
  ⟨by simp [Instr.wellFormed, Instr.operands, reg_fits], by simp [opcodeMap, opcodeRow]⟩
theorem ldVxMem (x : Nibble) : Statement (.ldVxMem x) :=
  ⟨by simp [Instr.wellFormed, Instr.operands, reg_fits], by simp [opcodeMap, opcodeRow]⟩

end Sys2Proof.Laws.OperandsFit
end

