-- ==== Sys2Proof/Laws/Step.lean ====
section
/-! SUPPORT. What a step can do, said once, and what the shared ends of the meanings (`writeReg`, `writeFlagged`,
`skipIf`) do in the terms of Safety.lean. -/

namespace Sys2Proof.Machine

open Sys2Proof.Safety

/-- The inversion lemma of a step: the core was running, and the word was unrecognized, or its instruction was executed
and the step ended (R81). -/
theorem step_cases (s t : State) (h : step s = .next t) :
    s.halt = none ∧
    ((∃ e, decodeWord s.fetchWord = .error e ∧ t = s.malformedStep) ∨
     (∃ i u, decodeWord s.fetchWord = .ok i ∧ exec i s = .next u ∧ t = u.finishStep)) := by
  unfold step at h
  split at h
  · cases h
  · next hs =>
    refine ⟨hs, ?_⟩
    split at h
    · next e he => exact .inl ⟨e, he, by injection h with h; exact h.symm⟩
    · next i hi =>
      cases hx : exec i s with
      | next u => exact .inr ⟨i, u, hi, hx, by rw [hx] at h; injection h with h; exact h.symm⟩
      | fault f => rw [hx] at h; cases h
      | refused r => rw [hx] at h; cases h

/-- A step answers a fault only where the core is halted, and then the recorded one; or where a meaning faults. -/
theorem step_fault_cases (s : State) (f : Fault) (h : step s = .fault f) :
    s.halt = some f ∨ (s.halt = none ∧ ∃ i, decodeWord s.fetchWord = .ok i ∧ exec i s = .fault f) := by
  unfold step at h
  split at h
  · next g hs => injection h with h; subst h; exact .inl hs
  · next hs =>
    split at h
    · cases h
    · next i hi =>
      refine .inr ⟨hs, i, hi, ?_⟩
      cases hx : exec i s with
      | next u => rw [hx] at h; cases h
      | fault g => rw [hx] at h; injection h with h; rw [h]
      | refused r => rw [hx] at h; cases h

/-- The end of a step touches only the timers (R76). -/
theorem finishStep_keeps (s : State) : KeepsAllBut [.DT, .ST] s s.finishStep := by
  intro p hp
  cases p <;> simp_all [Part.same]

/-- The end of a step never raises a timer (R22, R76). -/
theorem finishStep_le (s : State) :
    s.finishStep.DT.toNat ≤ s.DT.toNat ∧ s.finishStep.ST.toNat ≤ s.ST.toNat := by
  rcases s.finishStep_cases with ⟨_, e⟩ | ⟨_, _, e⟩ | ⟨_, _, e⟩ <;> rw [e] <;> simp [countDown_toNat]

/-- `writeReg` writes one register and advances pc by 2. -/
theorem writeReg_spec (s : State) (x : Nibble) (v : Byte) : WroteReg x v s (s.writeReg x v) := by
  refine ⟨by simp [State.writeReg], fun r h => by simp [State.writeReg, h], by simp [State.writeReg, PcPlus], ?_⟩
  intro p hp
  cases p <;> simp_all [Part.same, State.writeReg]

/-- `writeFlagged` writes a flag and a result in the order of R100 and advances pc by 2. -/
theorem writeFlagged_spec (s : State) (x : Nibble) (b : Bool) (v : Byte) :
    WroteFlagged x (if b then 1 else 0) v.toNat s (s.writeFlagged x b v) := by
  have hf : (flagByte b).toNat = if b then 1 else 0 := by cases b <;> rfl
  refine ⟨fun h => ?_, ?_, ?_, fun r h1 h2 => ?_, by simp [State.writeFlagged, PcPlus], ?_⟩
  · have h : x ≠ 15#4 := h
    cases ho : s.params.vfOrder <;>
      simp [State.writeFlagged, State.getV_setFlagAndResult, ho, h, Ne.symm h, hf]
  · rintro rfl ho
    simp [State.writeFlagged, State.getV_setFlagAndResult, ho]
  · rintro rfl ho
    simp [State.writeFlagged, State.getV_setFlagAndResult, ho, hf]
  · have h2 : r ≠ 15#4 := h2
    cases ho : s.params.vfOrder <;> simp [State.writeFlagged, State.getV_setFlagAndResult, ho, h1, h2]
  · intro p hp
    cases p <;> simp_all [Part.same, State.writeFlagged]

/-- `skipIf` changes only pc, by 4 where the condition holds and else by 2 (R97). -/
theorem skipIf_spec (s : State) (c : Bool) :
    KeepsAllBut [.pc] s (s.skipIf c) ∧ (c = true → PcPlus 4 s (s.skipIf c)) ∧ (c = false → PcPlus 2 s (s.skipIf c)) := by
  refine ⟨?_, ?_, ?_⟩
  · intro p hp
    cases p <;> simp_all [Part.same]
  · rintro rfl
    simp [PcPlus]
  · rintro rfl
    simp [PcPlus]

/-- The byte a step fetches from an address is the byte that reads there (R38, R42). -/
theorem fetchesByte_of_readByte (s : State) (a : Nat) (v : Byte) (h : s.readByte a = v) : FetchesByte a v s := by
  have same : ∀ b, a % 0x1000 = b % 0x1000 → s.readByte b = v := fun b e => by
    rw [← h, State.readByte, State.readByte, e]
  unfold FetchesByte State.fetchWord
  rw [hiByte_wordOfBytes, loByte_wordOfBytes]
  exact ⟨same _, same _⟩

end Sys2Proof.Machine
end

