-- ==== Sys2Proof/Tests/Slice0.lean ====
section
/-! SUPPORT. The model's own tests: the checks of well-formedness, a written-out word for every instruction, one or two
steps per instruction with the results of 95_test_vectors.md and 43_alu.md R114, and a witness for every statement that has
hypotheses. -/

namespace Sys2Proof.Tests

open Sys2Proof.Machine Sys2Proof.Safety

/-! ### Helpers -/

/-- The core after creation and the load of `bytes` at 0x200 (70_reset_and_hazards.md R157, R159). -/
def loaded (bytes : List Byte) : State := (State.reset.loadProgram bytes).2
/-- `s` with registers set. -/
def regs (s : State) (l : List (Nibble × Byte)) : State := l.foldl (fun t p => t.setV p.1 p.2) s
/-- `s` with one key pressed. -/
def press (s : State) (k : Nibble) : State := { s with key := s.key.set k.toNat true k.isLt }
/-- `s` under EXTERNAL_TICK. -/
def externally (s : State) : State := { s with params := { s.params with timerCoupling := .externalTick } }
/-- `s` under LOW_NIBBLE. -/
def lowNibble (s : State) : State := { s with params := { s.params with keyIndexPolicy := .lowNibble } }
/-- `s` under RESULT_THEN_FLAG. -/
def flagLast (s : State) : State := { s with params := { s.params with vfOrder := .resultThenFlag } }
/-- The state after one step. -/
def stepped (s : State) : State := resultState s (step s)
/-- The state an instruction's execution leaves. -/
def ran (i : Instr) (s : State) : State := resultState s (exec i s)
/-- The bytes at `a`, `a + 1`, …, `n` of them. -/
def bytesAt (s : State) (a n : Nat) : List Byte := (List.range n).map (fun k => s.readByte (a + k))
/-- How many cells are set. -/
def cellsSet (g : Grid) : Nat := (g.toList.map (fun column => column.toList.count true)).sum

/-! ### Well-formedness: each check refuses a term -/

theorem test_wf_refuses_reg16 : Operand.wellFormed (.reg 16) = false := by decide
theorem test_wf_refuses_byte256 : Operand.wellFormed (.byte 256) = false := by decide
theorem test_wf_refuses_addr0x1000 : Operand.wellFormed (.addr 0x1000) = false := by decide
theorem test_wf_refuses_nibble16 : Operand.wellFormed (.nibble 16) = false := by decide
theorem test_wf_accepts_largest :
    [Operand.reg 15, .byte 255, .addr 0xFFF, .nibble 15].all Operand.wellFormed = true := by decide
theorem test_wf_instr_boundary : Instr.wellFormed (.drw 0xF 0xF 0xF) = true := by decide
theorem test_image_3584_fits : imageFits (List.replicate 3584 0) = true := by
  rw [imageFits, List.length_replicate]; rfl
theorem test_image_3585_refused : imageFits (List.replicate 3585 0) = false := by
  rw [imageFits, List.length_replicate]; rfl

/-! ### Decoding: for every instruction a word written out from the pattern column of R59 -/

/-- 95_test_vectors.md 2.1: the fields of a word. -/
theorem test_fields_D125 :
    (opField 0xD125, xField 0xD125, yField 0xD125, nField 0xD125, nnField 0xD125, nnnField 0xD125)
      = (0xD, 0x1, 0x2, 0x5, 0x25, 0x125) := by decide
theorem test_fields_8AB6 :
    (opField 0x8AB6, xField 0x8AB6, yField 0x8AB6, nField 0x8AB6, nnField 0x8AB6, nnnField 0x8AB6)
      = (0x8, 0xA, 0xB, 0x6, 0xB6, 0xAB6) := by decide

theorem test_decode_display :
    decodeTableWord 16 0x00E0 = some .cls ∧ decodeTableWord 16 0xD125 = some (.drw 0x1 0x2 0x5) := by decide
theorem test_decode_jumps :
    decodeTableWord 16 0x00EE = some .ret ∧ decodeTableWord 16 0x1ABC = some (.jp 0xABC) ∧
    decodeTableWord 16 0x2300 = some (.call 0x300) ∧ decodeTableWord 16 0xBFFF = some (.jpV0 0xFFF) := by decide
theorem test_decode_skips :
    decodeTableWord 16 0x3342 = some (.seByte 0x3 0x42) ∧ decodeTableWord 16 0x4343 = some (.sneByte 0x3 0x43) ∧
    decodeTableWord 16 0x5120 = some (.seReg 0x1 0x2) ∧ decodeTableWord 16 0x9120 = some (.sneReg 0x1 0x2) := by decide
theorem test_decode_loads :
    decodeTableWord 16 0x6AFF = some (.ldByte 0xA 0xFF) ∧ decodeTableWord 16 0x7102 = some (.addByte 0x1 0x02) ∧
    decodeTableWord 16 0x8120 = some (.ldReg 0x1 0x2) ∧ decodeTableWord 16 0xC10F = some (.rnd 0x1 0x0F) := by decide
theorem test_decode_logic :
    decodeTableWord 16 0x8121 = some (.orReg 0x1 0x2) ∧ decodeTableWord 16 0x8122 = some (.andReg 0x1 0x2) ∧
    decodeTableWord 16 0x8123 = some (.xorReg 0x1 0x2) := by decide
theorem test_decode_arithmetic :
    decodeTableWord 16 0x8FE4 = some (.addReg 0xF 0xE) ∧ decodeTableWord 16 0x8125 = some (.subReg 0x1 0x2) ∧
    decodeTableWord 16 0x8126 = some (.shr 0x1 0x2) ∧ decodeTableWord 16 0x8127 = some (.subn 0x1 0x2) ∧
    decodeTableWord 16 0x812E = some (.shl 0x1 0x2) := by decide
theorem test_decode_index :
    decodeTableWord 16 0xA123 = some (.ldI 0x123) ∧ decodeTableWord 16 0xF11E = some (.addIVx 0x1) ∧
    decodeTableWord 16 0xF129 = some (.ldFVx 0x1) := by decide
theorem test_decode_memory :
    decodeTableWord 16 0xF133 = some (.ldBVx 0x1) ∧ decodeTableWord 16 0xF355 = some (.ldMemVx 0x3) ∧
    decodeTableWord 16 0xF265 = some (.ldVxMem 0x2) := by decide
theorem test_decode_keys :
    decodeTableWord 16 0xE19E = some (.skp 0x1) ∧ decodeTableWord 16 0xE1A1 = some (.sknp 0x1) ∧
    decodeTableWord 16 0xF20A = some (.ldVxK 0x2) := by decide
theorem test_decode_timers :
    decodeTableWord 16 0xF107 = some (.ldVxDT 0x1) ∧ decodeTableWord 16 0xF115 = some (.ldDTVx 0x1) ∧
    decodeTableWord 16 0xF118 = some (.ldSTVx 0x1) := by decide
/-- 95_test_vectors.md 2.2: one word of each unrecognized kind. -/
theorem test_decode_refuses :
    [0x0000, 0x00E1, 0x0123, 0x5121, 0x8008, 0x800F, 0x9121, 0xE09F, 0xF0FF].map (decodeTableWord 16)
      = List.replicate 9 none := by decide
theorem test_decode_bytes_big_endian :
    decodeBytes [0x60, 0x05, 0xAA] = .ok (.ldByte 0x0 0x05, [0xAA]) ∧ decodeBytes [0x60] = .error (.truncated 1) := by
  decide

/-! ### Steps: display (95_test_vectors.md S3, S6, V-D2 to V-D7) -/

theorem test_cls :
    let t := stepped { loaded [0x00, 0xE0] with grid := Vector.replicate 64 (Vector.replicate 32 true) }
    (cellsSet t.grid, t.redraw, t.pc) = (0, true, 0x202) := by decide

/-- V-D2: columns and rows wrap cell by cell. -/
theorem test_drw_wraps :
    let t := stepped ((regs { loaded [0xD0, 0x12] with I := 0x300 } [(0, 0x3E), (1, 0x1F)]).storeBytes 0x300 [0xC0, 0xC0])
    (cellsSet t.grid, t.grid.cell 62 31, t.grid.cell 63 31, t.grid.cell 62 0, t.grid.cell 63 0, t.getV 0xF, t.redraw)
      = (4, true, true, true, true, 0, true) := by decide

/-- V-D7: the column is V15 before the write of VF. -/
theorem test_drw_x_is_vf :
    let t := stepped (regs { loaded [0xDF, 0x15] with I := 0x050 } [(0xF, 2)])
    (cellsSet t.grid, t.grid.cell 2 0, t.grid.cell 5 0, t.grid.cell 1 0, t.getV 0xF) = (14, true, true, false, 0) := by
  decide

/-! ### Steps: control flow (V-C1 to V-C14) -/

theorem test_jp : (stepped (loaded [0x1A, 0xBC])).pc = 0xABC := by decide

theorem test_call :
    let t := stepped (loaded [0x23, 0x00])
    (t.stack[0], t.SP, t.pc) = (0x200, 1, 0x300) := by decide

/-- V-C11: sixteen entries are held. -/
theorem test_call_overflow :
    stepped { loaded [0x23, 0x00] with SP := 16, DT := 3 }
      = { loaded [0x23, 0x00] with SP := 16, DT := 3, halt := some (.stackOverflow 0x200 0x2300) } := by decide

/-- V-C3. -/
theorem test_ret :
    let t := stepped ((stepped (loaded [0x23, 0x00])).storeBytes 0x300 [0x00, 0xEE])
    (t.SP, t.pc) = (0, 0x202) := by decide

/-- V-C12 and V-C13: the fault, with the timer not decremented, and the next step's report of it. -/
theorem test_ret_underflow :
    let s := { loaded [0x00, 0xEE] with DT := 3 }
    hostStep s = (.fatal (.stackUnderflow 0x200 0x00EE), { s with halt := some (.stackUnderflow 0x200 0x00EE) }) ∧
    hostStep (stepped s) = (.fatal (.stackUnderflow 0x200 0x00EE), stepped s) := by decide

theorem test_se_byte :
    (stepped (regs (loaded [0x33, 0x42]) [(3, 0x42)])).pc = 0x204 ∧
    (stepped (regs (loaded [0x33, 0x43]) [(3, 0x42)])).pc = 0x202 := by decide

theorem test_sne_byte :
    (stepped (regs (loaded [0x43, 0x42]) [(3, 0x42)])).pc = 0x202 ∧
    (stepped (regs (loaded [0x43, 0x43]) [(3, 0x42)])).pc = 0x204 := by decide

theorem test_se_reg :
    (stepped (regs (loaded [0x51, 0x20]) [(1, 7), (2, 7)])).pc = 0x204 ∧
    (stepped (regs (loaded [0x51, 0x20]) [(1, 7), (2, 8)])).pc = 0x202 := by decide

theorem test_sne_reg :
    (stepped (regs (loaded [0x91, 0x20]) [(1, 7), (2, 7)])).pc = 0x202 ∧
    (stepped (regs (loaded [0x91, 0x20]) [(1, 7), (2, 8)])).pc = 0x204 := by decide

/-- V-C4: the sum passes 0xFFF. -/
theorem test_jp_v0_wraps : (stepped (regs (loaded [0xBF, 0xFF]) [(0, 0xFF)])).pc = 0x0FE := by decide

/-- V-C6: a skip wraps to 0x000. -/
theorem test_skip_wraps :
    (stepped ({ loaded [] with pc := 0xFFC }.storeBytes 0xFFC [0x30, 0x00])).pc = 0x000 := by decide

/-! ### Steps: registers and arithmetic (V-A1 to V-A15, R114, S4, S5) -/

theorem test_ld_byte : (stepped (loaded [0x6A, 0xFF])).getV 0xA = 0xFF := by decide

theorem test_add_byte :
    let t := stepped (regs (loaded [0x71, 0x02]) [(1, 0xFF), (0xF, 7)])
    (t.getV 1, t.getV 0xF) = (0x01, 7) := by decide

theorem test_ld_reg :
    let t := stepped (regs (loaded [0x81, 0x20]) [(1, 0x12), (2, 0x34)])
    (t.getV 1, t.getV 2) = (0x34, 0x34) := by decide

theorem test_or :
    let t := stepped (regs (loaded [0x81, 0x21]) [(1, 0xF0), (2, 0x0F), (0xF, 9)])
    (t.getV 1, t.getV 0xF) = (0xFF, 9) := by decide

theorem test_and :
    let t := stepped (regs (loaded [0x81, 0x22]) [(1, 0xF0), (2, 0x0F), (0xF, 9)])
    (t.getV 1, t.getV 0xF) = (0x00, 9) := by decide

theorem test_xor :
    let t := stepped (regs (loaded [0x81, 0x23]) [(1, 0xF0), (2, 0x0F), (0xF, 9)])
    (t.getV 1, t.getV 0xF) = (0xFF, 9) := by decide

theorem test_add_reg_carries :
    let t := stepped (regs (loaded [0x81, 0x24]) [(1, 0xFF), (2, 0x01)])
    (t.getV 1, t.getV 2, t.getV 0xF) = (0x00, 0x01, 1) := by decide

/-- V-A5: the destination is VF, under both orders. -/
theorem test_add_reg_vf :
    let s := regs (loaded [0x8F, 0xE4]) [(0xE, 0x01), (0xF, 0xFF)]
    ((stepped s).getV 0xF, (stepped (flagLast s)).getV 0xF) = (0x00, 0x01) := by decide

theorem test_sub_borrows :
    let t := stepped (regs (loaded [0x81, 0x25]) [(1, 0x05), (2, 0x0A)])
    (t.getV 1, t.getV 0xF) = (0xFB, 0) := by decide

/-- V-A7: the destination is VF, under both orders. -/
theorem test_sub_vf :
    let s := regs (loaded [0x8F, 0x15]) [(1, 0x0A), (0xF, 0x05)]
    ((stepped s).getV 0xF, (stepped (flagLast s)).getV 0xF) = (0xFB, 0x00) := by decide

/-- V-A14: y is ignored. -/
theorem test_shr :
    let t := stepped (regs (loaded [0x81, 0x26]) [(1, 0x80), (2, 0x55)])
    (t.getV 1, t.getV 2, t.getV 0xF) = (0x40, 0x55, 0) := by decide

/-- R114: the bit shifted out is 1. -/
theorem test_shr_out :
    let t := stepped (regs (loaded [0x81, 0x26]) [(1, 0x01)])
    (t.getV 1, t.getV 0xF) = (0x00, 1) := by decide

theorem test_subn_borrows :
    let t := stepped (regs (loaded [0x81, 0x27]) [(1, 0x0A), (2, 0x05)])
    (t.getV 1, t.getV 0xF) = (0xFB, 0) := by decide

/-- V-A15: equal operands do not borrow. -/
theorem test_subn_equal :
    let t := stepped (regs (loaded [0x81, 0x17]) [(1, 0x05)])
    (t.getV 1, t.getV 0xF) = (0x00, 1) := by decide

theorem test_shl_out :
    let t := stepped (regs (loaded [0x81, 0x2E]) [(1, 0x80)])
    (t.getV 1, t.getV 0xF) = (0x00, 1) := by decide

/-- V-A8: the destination is VF, under both orders. -/
theorem test_shl_vf :
    let s := regs (loaded [0x8F, 0x0E]) [(0xF, 0x81)]
    ((stepped s).getV 0xF, (stepped (flagLast s)).getV 0xF) = (0x02, 0x01) := by decide

/-- V-A13: with the mask 0 the result is 0 whatever byte is drawn. -/
theorem test_rnd_masked : (stepped (regs (loaded [0xC3, 0x00]) [(3, 0x77)])).getV 3 = 0x00 := by
  have h : stepped (regs (loaded [0xC3, 0x00]) [(3, 0x77)])
      = (ran (.rnd 3 0) (regs (loaded [0xC3, 0x00]) [(3, 0x77)])).finishStep := rfl
  rw [h]
  simp [ran, exec, execRnd, State.drawRandom, State.writeReg, resultState]

/-! ### Steps: index and memory (V-M1 to V-M14) -/

theorem test_ld_i : (stepped (loaded [0xA1, 0x23])).I = 0x123 := by decide

/-- V-M2: the sum passes 0xFFF. -/
theorem test_add_i_wraps :
    let t := stepped (regs { loaded [0xF1, 0x1E] with I := 0xFFF } [(1, 1)])
    (t.I, t.getV 0xF) = (0x000, 1) := by decide

/-- V-M4: the operand is VF before its write. -/
theorem test_add_i_vf :
    let t := stepped (regs { loaded [0xFF, 0x1E] with I := 0xFFF } [(0xF, 1)])
    (t.I, t.getV 0xF) = (0x000, 1) := by decide

theorem test_ld_f : (stepped (regs (loaded [0xF1, 0x29]) [(1, 0x0F)])).I = 0x09B := by decide

/-- V-M7: the value is not reduced to a nibble. -/
theorem test_ld_f_large : (stepped (regs (loaded [0xF1, 0x29]) [(1, 0xFF)])).I = 0x54B := by decide

theorem test_ld_b :
    bytesAt (stepped (regs { loaded [0xF1, 0x33] with I := 0x300 } [(1, 255)])) 0x300 4 = [2, 5, 5, 0] := by
  decide

theorem test_ld_b_hundred :
    bytesAt (stepped (regs { loaded [0xF1, 0x33] with I := 0x300 } [(1, 100)])) 0x300 3 = [1, 0, 0] := by
  decide

/-- V-M12: the block wraps past 0xFFF. -/
theorem test_dump_wraps :
    let t := stepped (regs { loaded [0xF3, 0x55] with I := 0xFFE } [(0, 1), (1, 2), (2, 3), (3, 4), (4, 5)])
    (bytesAt t 0xFFE 5, t.I) = ([1, 2, 3, 4, 0], 0xFFE) := by decide

/-- V-M13: the register above x keeps its value. -/
theorem test_load :
    let t := stepped (regs ({ loaded [0xF2, 0x65] with I := 0x300 }.storeBytes 0x300 [9, 8, 7, 6]) [(3, 0x33)])
    (t.getV 0, t.getV 1, t.getV 2, t.getV 3, t.I) = (9, 8, 7, 0x33, 0x300) := by decide

/-- V-M14: VF is loaded last, as data. -/
theorem test_load_all :
    let t := stepped ({ loaded [0xFF, 0x65] with I := 0x300 }.storeBytes 0x300
      [0, 1, 2, 3, 4, 5, 6, 7, 8, 9, 10, 11, 12, 13, 14, 15])
    (t.getV 0, t.getV 7, t.getV 0xF) = (0, 7, 0xF) := by decide

/-! ### Steps: keys and timers (S8, V-T1 to V-T10) -/

theorem test_skp :
    (stepped (press (regs (loaded [0xE1, 0x9E]) [(1, 5)]) 5)).pc = 0x204 ∧
    (stepped (regs (loaded [0xE1, 0x9E]) [(1, 5)])).pc = 0x202 := by decide

/-- V-T8 and V-T9: a key index of 16 under both policies. -/
theorem test_skp_index16 :
    let s := press (regs (loaded [0xE1, 0x9E]) [(1, 0x10)]) 0
    stepReport s = .fatal (.keyIndexOutOfRange 0x200 0xE19E) ∧ (stepped s).pc = 0x200 ∧
    (stepped (lowNibble s)).pc = 0x204 := by decide

theorem test_sknp :
    (stepped (press (regs (loaded [0xE1, 0xA1]) [(1, 5)]) 5)).pc = 0x202 ∧
    (stepped (regs (loaded [0xE1, 0xA1]) [(1, 5)])).pc = 0x204 := by decide

theorem test_sknp_index16 :
    stepReport (regs (loaded [0xE1, 0xA1]) [(1, 0x10)]) = .fatal (.keyIndexOutOfRange 0x200 0xE1A1) := by decide

theorem test_ld_vx_dt :
    let t := stepped { loaded [0xF1, 0x07] with DT := 0x3C }
    (t.getV 1, t.DT) = (0x3C, 0x3B) := by decide

/-- V-T4: no key pressed. -/
theorem test_ld_vx_k_waits :
    let s := { loaded [0xF2, 0x0A] with DT := 5 }
    hostStep s = (.wait, { s with DT := 4 }) := by decide

/-- V-T5: two keys pressed. -/
theorem test_ld_vx_k_lowest :
    let t := stepped (press (press { loaded [0xF2, 0x0A] with DT := 4 } 9) 0xC)
    (t.getV 2, t.pc, t.DT) = (9, 0x202, 3) := by decide

/-- S8: the setting step decrements its own value, and does not under EXTERNAL_TICK. -/
theorem test_ld_dt_vx :
    let s := regs (loaded [0xF0, 0x15]) [(0, 2)]
    ((stepped s).DT, (stepped (externally s)).DT) = (1, 2) := by decide

theorem test_ld_dt_vx_zero : (stepped (regs (loaded [0xF1, 0x15]) [(1, 0)])).DT = 0 := by decide

theorem test_ld_st_vx : (stepped (regs (loaded [0xF1, 0x18]) [(1, 5)])).ST = 4 := by decide

/-! ### Steps: fetch, unrecognized words, the host (V-S1 to V-S4, V-L1 to V-L4, 2.2) -/

/-- V-S1: the second byte is fetched from 0x000. -/
theorem test_fetch_wraps :
    let t := stepped ({ loaded [] with pc := 0xFFF }.storeBytes 0xFFF [0x61, 0x05])
    (t.getV 1, t.pc) = (5, 0x001) := by decide

/-- V-S2: an odd pc. -/
theorem test_fetch_odd :
    let t := stepped ({ loaded [] with pc := 0x201 }.storeBytes 0x201 [0x60, 0x07])
    (t.getV 0, t.pc) = (7, 0x203) := by decide

theorem test_malformed :
    let s := { loaded [0x51, 0x21] with DT := 5, ST := 1 }
    hostStep s = (.malformedOpcode 0x200 0x5121, { s with pc := 0x202, DT := 4, ST := 0 }) := by decide

theorem test_with_fetch_word : (stepped (State.reset.withFetchWord 16 0x6005)).getV 0 = 5 := by decide

/-- V-S3 and V-S4: a halted core, under EXTERNAL_TICK. -/
theorem test_halted_tick_and_reset :
    let s := press { externally (loaded [0x60, 0x05]) with halt := some (.stackUnderflow 0x200 0x00EE), DT := 2 } 3
    perform .tick s = (.done, s) ∧ hostStep s = (.fatal (.stackUnderflow 0x200 0x00EE), s) ∧
    (perform .reset s).2 = press (externally State.reset) 3 := by decide

/-- V-T10: the tick. -/
theorem test_tick :
    let t := stepped (externally { loaded [0xF1, 0x07] with DT := 2 })
    (t.getV 1, t.DT, (perform .tick t).2.DT) = (2, 2, 1) := by decide

/-- R132: the code the host reads of a step that completes, waits, is unrecognized or overflows the stack. -/
theorem test_step_codes :
    [loaded [0x60, 0x05], loaded [0xF0, 0x0A], loaded [0x00, 0x00], { loaded [0x22, 0x00] with SP := 16 },
      loaded [0x00, 0xEE], regs (loaded [0xE1, 0x9E]) [(1, 0x10)]].map (fun s => (stepReport s).code)
      = [0, 1, 2, 3, 4, 5] := by decide

/-- V-L4: a load leaves the bytes beyond the image. -/
theorem test_load_keeps_rest :
    bytesAt ((State.reset.storeBytes 0x203 [0xAA]).loadProgram [0x12, 0x00]).2 0x200 4 = [0x12, 0x00, 0x00, 0xAA] := by
  decide

/-- R31, R33: the font's first and last bytes and their neighbours after reset. -/
theorem test_reset_font :
    [0x04F, 0x050, 0x09F, 0x0A0, 0xFFF].map State.reset.readByte = [0x00, 0xF0, 0x80, 0x00, 0x00] := by decide

/-- A torn read of the grid between two states may show a cell of each (R150, U3). -/
theorem test_torn_grid :
    TornGrid Grid.clear ((Grid.clear.flip 0 0).flip 1 1) (Grid.clear.flip 1 1) := by
  have h : ∀ c < 64, ∀ r < 32, (Grid.clear.flip 1 1).cell c r = Grid.clear.cell c r ∨
      (Grid.clear.flip 1 1).cell c r = ((Grid.clear.flip 0 0).flip 1 1).cell c r := by decide
  intro c r
  have := h (c % 64) (Nat.mod_lt _ (by decide)) (r % 32) (Nat.mod_lt _ (by decide))
  simpa [Grid.cell] using this

/-! ### Witnesses: a state and operands that meet the hypotheses of each statement that has any

One theorem a statement, or one a clause, named after the statement. -/

/-- A state that no reset leaves: pc at the top of the space, memory written, a held stack entry, timers running. -/
def busy : State :=
  { regs ({ State.reset with pc := 0xFFF }.storeBytes 0xFFF [0x61, 0x05]) [(0, 0xFF), (0xF, 3)] with
    I := 0xFFE, stack := (Vector.replicate 16 0).set 0 0xFFF, SP := 1, DT := 7, ST := 1 }
/-- A halted core. -/
def stopped : State := { busy with halt := some (.stackOverflow 0xFFF 0x2000) }

theorem test_witness_DecodeOfEncode : Instr.wellFormed (.shr 0xF 0xF) = true ∧ Instr.wellFormed (.jpV0 0xFFF) = true := by
  decide
theorem test_witness_EncodeOfDecode : decodeWord 0xF065 = .ok (.ldVxMem 0x0) ∧ decodeWord 0x8FFE = .ok (.shl 0xF 0xF) := by
  decide
theorem test_witness_UnrecognizedWords :
    [0x0FFF, 0x5001, 0x9FFF, 0x8008, 0x800D, 0x800F, 0xE000, 0xFFFF].map decodeWord
      = [0x0FFF, 0x5001, 0x9FFF, 0x8008, 0x800D, 0x800F, 0xE000, 0xFFFF].map (fun w => .error (.malformedOpcode w)) := by
  decide
theorem test_witness_OpcodeMapDecides :
    opcodeRow (.shr 0 0) ∈ opcodeMap ∧ (0x8FF6 : Word) &&& (opcodeRow (.shr 0 0)).mask = (opcodeRow (.shr 0 0)).pattern := by
  decide
theorem test_witness_StepRunsDecodedInstruction :
    busy.halt = none ∧ decodeWord busy.fetchWord = .ok (.ldByte 1 5) ∧ Instr.wellFormed (.ldByte 1 5) = true ∧
    ∃ t, exec (.ldByte 1 5) busy = .next t :=
  ⟨rfl, by decide, by decide, _, rfl⟩

/-! The end of a step: both couplings, and a step that raises a fatal fault. -/

theorem test_witness_EndOfStepCountsDown_perStep :
    busy.halt = none ∧ decodeWord busy.fetchWord = .ok (.ldByte 1 5) ∧ busy.params.timerCoupling = .perStep ∧
    (∃ t, exec (.ldByte 1 5) busy = .next t ∧ t.halt = none) ∧ ∃ u, step busy = .next u :=
  ⟨rfl, by decide, rfl, ⟨_, rfl, rfl⟩, _, rfl⟩
theorem test_witness_EndOfStepCountsDown_external :
    (externally busy).halt = none ∧ decodeWord (externally busy).fetchWord = .ok (.ldByte 1 5) ∧
    (externally busy).params.timerCoupling = .externalTick ∧ (∃ t, exec (.ldByte 1 5) (externally busy) = .next t) ∧
    ∃ u, step (externally busy) = .next u :=
  ⟨rfl, by decide, rfl, ⟨_, rfl⟩, _, rfl⟩
theorem test_witness_EndOfStepCountsDown_fatal :
    (loaded [0x00, 0xEE]).halt = none ∧ decodeWord (loaded [0x00, 0xEE]).fetchWord = .ok .ret ∧
    (∃ t, exec .ret (loaded [0x00, 0xEE]) = .next t ∧ t.halt ≠ none) ∧ ∃ u, step (loaded [0x00, 0xEE]) = .next u :=
  ⟨rfl, by decide, ⟨_, rfl, by decide⟩, _, rfl⟩
theorem test_witness_MalformedWordAdvances :
    (loaded [0x80, 0x0F]).halt = none ∧ decodeWord (loaded [0x80, 0x0F]).fetchWord = .error (.malformedOpcode 0x800F) ∧
    (loaded [0x80, 0x0F]).params.timerCoupling = .perStep := by decide
theorem test_witness_MalformedWordAdvances_external :
    (externally (loaded [0x80, 0x0F])).halt = none ∧
    decodeWord (externally (loaded [0x80, 0x0F])).fetchWord = .error (.malformedOpcode 0x800F) ∧
    (externally (loaded [0x80, 0x0F])).params.timerCoupling = .externalTick := by decide
theorem test_witness_HaltedCoreReportsItsFault : stopped.halt = some (.stackOverflow 0xFFF 0x2000) := rfl
theorem test_witness_OnlyResetClearsHalt :
    stopped.halt = some (.stackOverflow 0xFFF 0x2000) ∧ HostOp.step ≠ .reset ∧ HostOp.tick ≠ .reset := by decide
theorem test_witness_FatalStepWritesOnlyHalt :
    (loaded [0x00, 0xEE]).halt = none ∧
    ∃ t, step (loaded [0x00, 0xEE]) = .next t ∧ t.halt = some (.stackUnderflow 0x200 0x00EE) :=
  ⟨rfl, _, rfl, by decide⟩
theorem test_witness_OnlyFourInstructionsFault :
    ({ busy with SP := 16 }.halt = none ∧
      ∃ t, exec (.call 0xFFF) { busy with SP := 16 } = .next t ∧ t.halt = some (.stackOverflow 0xFFF 0x2FFF)) ∧
    ({ busy with SP := 0 }.halt = none ∧
      ∃ t, exec .ret { busy with SP := 0 } = .next t ∧ t.halt = some (.stackUnderflow 0xFFF 0x00EE)) ∧
    ((regs busy [(2, 16)]).halt = none ∧
      ∃ t, exec (.sknp 2) (regs busy [(2, 16)]) = .next t ∧ t.halt = some (.keyIndexOutOfRange 0xFFF 0xE2A1)) :=
  ⟨⟨rfl, _, rfl, by decide⟩, ⟨rfl, _, rfl, by decide⟩, rfl, _, rfl, by decide⟩
theorem test_witness_EveryInstructionRuns : busy.halt = none := rfl
theorem test_witness_StepReportsItsOutcome :
    stepReport (loaded [0x00, 0xEE]) = .fatal (.stackUnderflow 0x200 0x00EE) ∧
    stepReport (loaded [0xF0, 0x0A]) = .wait ∧ stepReport (loaded [0x0F, 0xFF]) = .malformedOpcode 0x200 0x0FFF := by
  decide
theorem test_witness_StepReportsItsOutcome_next :
    (∃ t, step busy = .next t ∧ stepReport busy = .ok) ∧ stopped.halt = some (.stackOverflow 0xFFF 0x2000) :=
  ⟨⟨_, rfl, by decide⟩, rfl⟩

/-! The invariant, at a state no run from reset starts with. -/

theorem test_witness_StepKeepsInvariant : StateInv busy ∧ ∃ t, step busy = .next t :=
  ⟨by decide, _, rfl⟩
theorem test_witness_HostSessionsKeepInvariant : StateInv stopped := by decide

/-! The frames, at an instruction that stores past the top of the space. -/

theorem test_witness_InstructionsWriteOnlyTheirParts : ∃ t, exec (.ldMemVx 1) busy = .next t := ⟨_, rfl⟩
theorem test_witness_InstructionsWriteOnlyTheirRegisters :
    (∃ t, exec (.ldVxMem 2) busy = .next t) ∧ writesReg 3 (.ldVxMem 2) = false :=
  ⟨⟨_, rfl⟩, by decide⟩
theorem test_witness_InstructionsWriteOnlyTheirBytes :
    Memory.wf busy.params.font busy.mem ∧ (∃ t, exec (.ldMemVx 1) busy = .next t) ∧
    OutsideFromI busy (storedBytes (.ldMemVx 1)) 0x000 ∧ OutsideFromI busy (storedBytes (.ldMemVx 1)) 0xFFD :=
  ⟨by decide, ⟨_, rfl⟩, by unfold OutsideFromI; decide, by unfold OutsideFromI; decide⟩

/-! Display. The byte at 0x050 is 0xF0. -/

/-- A grid with the corner cell set, a one-row sprite at I. -/
def corner : State := { State.reset with I := 0x050, grid := Grid.clear.flip 0 0 }

theorem test_witness_DrwXorsSprite_covers : SpriteCovers corner 0 1 1 0 0 ∧ corner.grid.cell 0 0 = true :=
  ⟨⟨0, by decide, 0, by decide, by decide, by decide, by decide⟩, by decide⟩
theorem test_witness_DrwXorsSprite_misses : ¬ SpriteCovers corner 0 1 1 4 0 ∧ ¬ SpriteCovers corner 0 1 1 0 1 := by
  unfold SpriteCovers; decide
theorem test_witness_DrwXorsSprite_no_collision :
    ¬ ∃ c < 64, ∃ r < 32, State.reset.grid.cell c r = true ∧ SpriteCovers State.reset 0 1 0xF c r := by
  have h : ∀ c r, State.reset.grid.cell c r = false := by intro c r; simp [State.reset, Grid.cell]
  rintro ⟨c, -, r, -, hc, -⟩
  simp [h] at hc
theorem test_witness_DrwTwiceRestoresGrid :
    let s := { State.reset with I := 0x050 }
    (∃ t, exec (.drw 0 1 5) s = .next t ∧ (∃ u, exec (.drw 0 1 5) t = .next u) ∧ t.getV 0 = s.getV 0 ∧ t.getV 1 = s.getV 1) ∧
    (∀ c r, s.grid.cell c r = false) ∧ ∃ k < (5 : Nibble).toNat, s.readByte (s.I.toNat + k) ≠ 0 :=
  ⟨⟨_, rfl, ⟨_, rfl⟩, rfl, rfl⟩, fun c r => by simp [State.reset, Grid.cell], 0, by decide, by decide⟩
theorem test_witness_RedrawIsSetByDisplayOnly :
    (∃ t, exec (.drw 0 1 0) busy = .next t) ∧ (∃ t, exec (.ldI 0) busy = .next t) ∧
    ¬ (Instr.ldI 0 = .cls ∨ ∃ x y n, Instr.ldI 0 = .drw x y n) :=
  ⟨⟨_, rfl⟩, ⟨_, rfl⟩, by simp⟩

/-! Control flow: each clause at its boundary. -/

theorem test_witness_CallPushesOwnAddress :
    { busy with SP := 0 }.SP.val < 16 ∧ { busy with SP := 15 }.SP.val < 16 ∧ { busy with SP := 16 }.SP.val = 16 := by decide
theorem test_witness_RetPopsLatestAddress :
    0 < { busy with SP := 1 }.SP.val ∧ 0 < { busy with SP := 16 }.SP.val ∧ { busy with SP := 0 }.SP.val = 0 := by decide
theorem test_witness_CallThenRetResumes :
    { busy with SP := 15 }.SP.val < 16 ∧ ∃ t, exec (.call 0x300) { busy with SP := 15 } = .next t :=
  ⟨by decide, _, rfl⟩
theorem test_witness_SkipsOnByte : busy.getV 0 = 0xFF ∧ busy.getV 0 ≠ 0xFE := by decide
theorem test_witness_SkipsOnRegisters : busy.getV 1 = busy.getV 2 ∧ busy.getV 0 ≠ busy.getV 1 ∧ (0xF : Nibble) ≠ 0 := by
  decide

/-! The flag writers: x other than 0xF, and x = 0xF under both orders; then a sum at 255 and at 256, operands that are
equal and that borrow by one. -/

theorem test_witness_WroteFlagged :
    (0xE : Nibble) ≠ 0xF ∧ busy.params.vfOrder = .flagThenResult ∧ (flagLast busy).params.vfOrder = .resultThenFlag := by
  decide
theorem test_witness_AddRegCarries :
    ¬ ((regs busy [(1, 0x01), (2, 0xFE)]).getV 1).toNat + ((regs busy [(1, 0x01), (2, 0xFE)]).getV 2).toNat > 255 ∧
    ((regs busy [(1, 0x02), (2, 0xFE)]).getV 1).toNat + ((regs busy [(1, 0x02), (2, 0xFE)]).getV 2).toNat > 255 := by decide
theorem test_witness_SubtractsBorrow :
    ((regs busy [(1, 5), (2, 5)]).getV 1).toNat ≥ ((regs busy [(1, 5), (2, 5)]).getV 2).toNat ∧
    ¬ ((regs busy [(1, 4), (2, 5)]).getV 1).toNat ≥ ((regs busy [(1, 4), (2, 5)]).getV 2).toNat := by decide
theorem test_witness_RndMasksFreeByte : (0 : Nat) < 8 ∧ (7 : Nat) < 8 ∧ (0xE : Nibble) ≠ 0xF := by decide
theorem test_witness_LogicIsBitwise : (0 : Nat) < 8 ∧ (7 : Nat) < 8 := by decide

/-! Index and memory: the sum at 0xFFF and at 0x1000, blocks that wrap past 0xFFF. -/

theorem test_witness_IndexLoadsAndAdds :
    ¬ busy.I.toNat + ((regs busy [(2, 1)]).getV 2).toNat > 0xFFF ∧ busy.I.toNat + ((regs busy [(2, 2)]).getV 2).toNat > 0xFFF ∧
    (0xE : Nibble) ≠ 0xF := by decide
theorem test_witness_BcdStoresDigits :
    Memory.wf busy.params.font busy.mem ∧ OutsideFromI busy 3 0xFFD ∧ OutsideFromI busy 3 0x001 :=
  ⟨by decide, by unfold OutsideFromI; decide, by unfold OutsideFromI; decide⟩
theorem test_witness_DumpStoresRegisters :
    Memory.wf busy.params.font busy.mem ∧ (0xF : Nibble).toNat ≤ (0xF : Nibble).toNat ∧
    OutsideFromI busy ((0xF : Nibble).toNat + 1) 0xFFD ∧ OutsideFromI busy ((0xF : Nibble).toNat + 1) 0x00E :=
  ⟨by decide, by decide, by unfold OutsideFromI; decide, by unfold OutsideFromI; decide⟩
theorem test_witness_LoadReadsRegisters :
    (0x2 : Nibble).toNat ≤ (0x2 : Nibble).toNat ∧ (0x2 : Nibble).toNat < (0x3 : Nibble).toNat := by decide
theorem test_witness_DumpThenLoadRoundTrips :
    let t := ran (.ldMemVx 1) busy
    Memory.wf busy.params.font busy.mem ∧ exec (.ldMemVx 1) busy = .next t ∧ t.I = busy.I ∧
    (∀ k ≤ (1 : Nibble).toNat, t.readByte (busy.I.toNat + k) = t.readByte (busy.I.toNat + k)) ∧
    ∃ v, exec (.ldVxMem 1) t = .next v :=
  ⟨by decide, rfl, rfl, fun _ _ => rfl, _, rfl⟩
theorem test_witness_StoredCodeIsFetched_dump :
    let s := { busy with I := 0xFFF }
    Memory.wf s.params.font s.mem ∧ (2 : Nibble).toNat ≤ (2 : Nibble).toNat ∧ ∃ t, exec (.ldMemVx 2) s = .next t ∧
    t.finishStep.readByte (s.I.toNat + 2) = t.readByte (s.I.toNat + 2) ∧
    (s.I.toNat + 2) % 0x1000 = t.finishStep.pc.toNat % 0x1000 ∧
    (s.I.toNat + 3) % 0x1000 = (t.finishStep.pc.toNat + 1) % 0x1000 :=
  ⟨by decide, by decide, _, rfl, by decide, by decide, by decide⟩
theorem test_witness_StoredCodeIsFetched_bcd :
    let s := { busy with I := 0x000 }
    Memory.wf s.params.font s.mem ∧ 2 < 3 ∧ (5 : Byte).toNat = (s.getV 0).toNat / 10 ^ (2 - 2) % 10 ∧
    ∃ t, exec (.ldBVx 0) s = .next t ∧ t.readByte (s.I.toNat + 2) = t.readByte (s.I.toNat + 2) ∧
    (s.I.toNat + 2) % 0x1000 = (t.pc.toNat + 1) % 0x1000 :=
  ⟨by decide, by decide, by decide, _, rfl, rfl, by decide⟩
theorem test_witness_StoredCodeIsFetched_load :
    let u := (perform (.loadProgram [0x12, 0x00]) { busy with pc := 0x200 }).2
    Memory.wf busy.params.font busy.mem ∧ 0 < [(0x12 : Byte), 0x00].length ∧ 1 < [(0x12 : Byte), 0x00].length ∧
    [(0x12 : Byte), 0x00].length ≤ 3584 ∧ (0x200 + 0) % 0x1000 = u.pc.toNat % 0x1000 ∧
    (0x200 + 1) % 0x1000 = (u.pc.toNat + 1) % 0x1000 := by decide
theorem test_witness_StoredCodeIsFetched_step :
    busy.halt = none ∧ decodeWord busy.fetchWord = .ok (.ldByte 1 5) ∧ (∃ t, exec (.ldByte 1 5) busy = .next t) ∧
    ∃ u, step busy = .next u :=
  ⟨rfl, by decide, ⟨_, rfl⟩, _, rfl⟩

/-! Keys: the largest index below 16 and the smallest above, under both policies. -/

theorem test_witness_KeySkipsTestLatch_below :
    let s := regs busy [(2, 15)]
    (15 : Nibble).toNat = (s.getV 2).toNat % 16 ∧ (s.getV 2).toNat < 16 ∧ s.getKey 15 = false ∧
    (press s 15).getKey 15 = true := by decide
theorem test_witness_KeySkipsTestLatch_lowNibble :
    let s := lowNibble (regs busy [(2, 16)])
    (0 : Nibble).toNat = (s.getV 2).toNat % 16 ∧ s.params.keyIndexPolicy = .lowNibble := by decide
theorem test_witness_KeySkipsTestLatch_fault :
    let s := regs busy [(2, 16)]
    (0 : Nibble).toNat = (s.getV 2).toNat % 16 ∧ 16 ≤ (s.getV 2).toNat ∧ s.params.keyIndexPolicy = .fault := by decide
theorem test_witness_KeyWaitTakesLowest_none : ∀ k, busy.getKey k = false := by decide
theorem test_witness_KeyWaitTakesLowest_some :
    (press (press busy 9) 15).getKey 9 = true ∧
    ∀ j : Nibble, j.toNat < (9 : Nibble).toNat → (press (press busy 9) 15).getKey j = false := by decide
theorem test_witness_SetsTimers :
    busy.halt = none ∧ busy.params.timerCoupling = .perStep ∧ (externally busy).params.timerCoupling = .externalTick := by
  decide
theorem test_witness_TimersOnlyRiseWhenSet :
    (∃ t, step busy = .next t) ∧ (∀ x, decodeWord busy.fetchWord ≠ .ok (.ldDTVx x)) ∧
    ∀ x, decodeWord busy.fetchWord ≠ .ok (.ldSTVx x) := by
  have h : decodeWord busy.fetchWord = .ok (.ldByte 1 5) := by decide
  exact ⟨⟨_, rfl⟩, by simp [h], by simp [h]⟩
theorem test_witness_LatchIsReadOnlyInStep :
    (∃ t, exec (.skp 0) (press busy 3) = .next t) ∧ ∃ t, step (press busy 3) = .next t := ⟨⟨_, rfl⟩, _, rfl⟩

/-! The host interface. -/

theorem test_witness_LoadProgramCopiesBytes :
    Memory.wf busy.params.font busy.mem ∧ (List.replicate 3584 (1 : Byte)).length ≤ 3584 ∧
    (List.replicate 3585 (1 : Byte)).length > 3584 :=
  ⟨by decide, by rw [List.length_replicate], by rw [List.length_replicate]; decide⟩
theorem test_witness_LoadProgramWritesOnlyImage :
    Memory.wf busy.params.font busy.mem ∧ 0x1FF < 0x200 ∧ 0x200 + [(0x12 : Byte), 0x00].length ≤ 0x202 := by decide
theorem test_witness_TickDecrementsTimers :
    ((externally busy).params.timerCoupling = .externalTick ∧ (externally busy).halt = none) ∧
    ((externally stopped).params.timerCoupling = .externalTick ∧ (externally stopped).halt ≠ none) ∧
    busy.params.timerCoupling = .perStep := by decide
theorem test_witness_ResetLeavesDefaults :
    (0x04F < 0x1000 ∧ 0x04F < 0x050) ∧ (0x0A0 < 0x1000 ∧ 0x0A0 ≤ 0x0A0) ∧ 15 < 16 ∧ 79 < 80 := by decide

/-! What a program cannot observe. -/

theorem test_witness_StackAboveSpIsUnobservable :
    SameBelowSP busy { busy with stack := busy.stack.set 1 0x123 } ∧ ∃ t, step busy = .next t := by
  refine ⟨⟨rfl, ?_⟩, _, rfl⟩
  intro k hk hlt
  have : k = 0 := Nat.lt_one_iff.mp hlt
  subst this
  rfl
theorem test_witness_SoundTimerAndRedrawAreUnread : ∃ t, step busy = .next t ∧ busy.ST ≠ 0x55 := ⟨_, rfl, by decide⟩

end Sys2Proof.Tests
end

section
/-! The fetch of the instruction word (20_memory.md R42). -/

namespace Sys2Proof.Machine

/-- Settles O8: the fetched word is `wordOfBytes` of the two bytes, whose value and two halves are known. -/
theorem fetchIsBigEndian : Obligations.FetchIsBigEndian := by
  unfold Obligations.FetchIsBigEndian
  intro s
  refine ⟨?value, ?high, ?low⟩
  case value => exact wordOfBytes_toNat _ _
  case high => exact hiByte_wordOfBytes _ _
  case low => exact loByte_wordOfBytes _ _

end Sys2Proof.Machine
end

section
/-! The fields of a word and their overlaps (30_encoding.md R56). -/

namespace Sys2Proof

theorem nnField_eq_yField_append_nField (w : Word) : nnField w = yField w ++ nField w := by
  apply BitVec.eq_of_toNat_eq
  rw [append_toNat, nnField_toNat, yField_toNat, nField_toNat]
  omega

theorem nnnField_eq_xField_append_nnField (w : Word) : nnnField w = xField w ++ nnField w := by
  apply BitVec.eq_of_toNat_eq
  rw [append_toNat, nnnField_toNat, xField_toNat, nnField_toNat]
  omega

namespace Machine

/-- Settles O4: each field is the slice's number, and each overlap is an equation between those numbers. -/
theorem fieldsOfWord : Obligations.FieldsOfWord := by
  unfold Obligations.FieldsOfWord
  intro w
  exact ⟨opField_toNat w, xField_toNat w, yField_toNat w, nField_toNat w, nnField_toNat w, nnnField_toNat w,
    nnField_eq_yField_append_nField w, nnnField_eq_xField_append_nnField w⟩

end Machine
end Sys2Proof
end

section
/-! What each instruction does to `redraw` (41_display.md R86): CLS and DRW set it, every other one keeps it. -/

namespace Sys2Proof.Machine

/-- The instructions that set `redraw` (R86). -/
def setsRedraw : Instr → Bool
  | .cls => true
  | .drw _ _ _ => true
  | _ => false

theorem setsRedraw_iff (i : Instr) : setsRedraw i = true ↔ i = .cls ∨ ∃ x y n, i = .drw x y n := by
  cases i <;> simp [setsRedraw]

/-! ### The shared ends of the meanings, and the meanings with more than one outcome -/

@[simp] theorem State.writeReg_redraw (s : State) (x : Nibble) (v : Byte) : (s.writeReg x v).redraw = s.redraw := rfl

@[simp] theorem State.writeFlagged_redraw (s : State) (x : Nibble) (b : Bool) (v : Byte) :
    (s.writeFlagged x b v).redraw = s.redraw := by
  simp [State.writeFlagged]

theorem execRet_redraw (s : State) : (resultState s (execRet s)).redraw = s.redraw := by
  obtain ⟨-, hpop⟩ | ⟨_, hpop⟩ := s.pop_cases <;> simp [execRet, hpop, resultState]

theorem execCall_redraw (nnn : Addr) (s : State) : (resultState s (execCall nnn s)).redraw = s.redraw := by
  obtain ⟨-, hpush⟩ | ⟨_, hpush⟩ := s.push_cases s.pc <;> simp [execCall, hpush, resultState]

theorem execSkp_redraw (x : Nibble) (s : State) : (resultState s (execSkp x s)).redraw = s.redraw := by
  obtain ⟨hkey, -⟩ | ⟨hkey, -⟩ := keyIndex_cases s.params.keyIndexPolicy (s.getV x) <;>
    simp [execSkp, hkey, resultState]

theorem execSknp_redraw (x : Nibble) (s : State) : (resultState s (execSknp x s)).redraw = s.redraw := by
  obtain ⟨hkey, -⟩ | ⟨hkey, -⟩ := keyIndex_cases s.params.keyIndexPolicy (s.getV x) <;>
    simp [execSknp, hkey, resultState]

theorem execLdVxK_redraw (x : Nibble) (s : State) : (resultState s (execLdVxK x s)).redraw = s.redraw := by
  obtain ⟨hkey, -⟩ | ⟨_, hkey, -⟩ := s.lowestPressed_cases <;> simp [execLdVxK, hkey, resultState]

/-! ### Every instruction -/

/-- The cases are grouped by the update that ends the meaning: only the two display instructions assign `redraw`. -/
theorem exec_redraw (i : Instr) (s : State) :
    (resultState s (exec i s)).redraw = (setsRedraw i || s.redraw) := by
  cases i with
  | cls | drw => rfl
  | jp | jpV0 => exact s.setPc_redraw _
  | call => exact execCall_redraw _ s
  | ret => exact execRet_redraw s
  | seByte | sneByte | seReg | sneReg => exact s.skipIf_redraw _
  | ldByte | addByte | ldReg | orReg | andReg | xorReg | ldVxDT => exact s.writeReg_redraw _ _
  | addReg | subReg | shr | subn | shl => exact s.writeFlagged_redraw _ _ _
  | rnd => exact s.drawRandom.2.writeReg_redraw _ _
  | skp => exact execSkp_redraw _ s
  | sknp => exact execSknp_redraw _ s
  | ldVxK => exact execLdVxK_redraw _ s
  | ldDTVx | ldSTVx => exact State.advance_redraw _ 2
  | ldI nnn => exact s.setI_redraw nnn.toNat
  | ldFVx x => exact s.setI_redraw (glyphAddress (s.getV x))
  | addIVx x => exact (s.setVF (indexOverflowFlag s.I (s.getV x))).setI_redraw (s.I.toNat + (s.getV x).toNat)
  | ldBVx | ldMemVx => exact s.storeBytes_redraw _ _
  | ldVxMem => exact s.loadRegs_redraw _ _

/-- Settles O27: `exec_redraw` says what every instruction leaves in `redraw`; the host's operation assigns false. -/
theorem redrawIsSetByDisplayOnly : Obligations.RedrawIsSetByDisplayOnly := by
  unfold Obligations.RedrawIsSetByDisplayOnly
  refine ⟨fun i s t hexec => ?_, fun _ => rfl⟩
  have hredraw : t.redraw = (setsRedraw i || s.redraw) := by
    rw [← exec_redraw, hexec, resultState]
  rw [← setsRedraw_iff]
  constructor
  case left =>
    intro hset
    rw [hredraw, hset, Bool.true_or]
  case right =>
    intro hkeep
    rw [hredraw, Bool.eq_false_of_not_eq_true hkeep, Bool.false_or]

end Sys2Proof.Machine
end

section
/-! The input latch (45_timers_input.md R130): no meaning and no end of a step assigns `key`; only `setInput` does. -/

namespace Sys2Proof.Machine

/-! ### The shared updates -/

@[simp] theorem State.writeReg_key (s : State) (x : Nibble) (v : Byte) : (s.writeReg x v).key = s.key := rfl

@[simp] theorem State.writeFlagged_key (s : State) (x : Nibble) (b : Bool) (v : Byte) :
    (s.writeFlagged x b v).key = s.key := by
  simp [State.writeFlagged]

@[simp] theorem State.malformedStep_key (s : State) : s.malformedStep.key = s.key := by
  simp [State.malformedStep]

/-! ### Every instruction and every step -/

/-- The cases are grouped by the update that ends the meaning; a meaning with a fatal fault, and the wait for a key,
split on the inversion lemma of the operation that decides it. -/
theorem exec_key (i : Instr) (s : State) : (resultState s (exec i s)).key = s.key := by
  cases i with
  | cls | drw => rfl
  | jp | jpV0 => exact s.setPc_key _
  | call => obtain ⟨-, hpush⟩ | ⟨_, hpush⟩ := s.push_cases s.pc <;> simp [exec, execCall, hpush, resultState]
  | ret => obtain ⟨-, hpop⟩ | ⟨_, hpop⟩ := s.pop_cases <;> simp [exec, execRet, hpop, resultState]
  | seByte | sneByte | seReg | sneReg => exact s.skipIf_key _
  | ldByte | addByte | ldReg | orReg | andReg | xorReg | ldVxDT => exact s.writeReg_key _ _
  | addReg | subReg | shr | subn | shl => exact s.writeFlagged_key _ _ _
  | rnd => exact s.drawRandom.2.writeReg_key _ _
  | skp x | sknp x =>
    obtain ⟨hkey, -⟩ | ⟨hkey, -⟩ := keyIndex_cases s.params.keyIndexPolicy (s.getV x) <;>
      simp [exec, execSkp, execSknp, hkey, resultState]
  | ldVxK => obtain ⟨hkey, -⟩ | ⟨_, hkey, -⟩ := s.lowestPressed_cases <;> simp [exec, execLdVxK, hkey, resultState]
  | ldDTVx | ldSTVx => exact State.advance_key _ 2
  | ldI nnn => exact s.setI_key nnn.toNat
  | ldFVx x => exact s.setI_key (glyphAddress (s.getV x))
  | addIVx x => exact (s.setVF (indexOverflowFlag s.I (s.getV x))).setI_key (s.I.toNat + (s.getV x).toNat)
  | ldBVx | ldMemVx => exact s.storeBytes_key _ _
  | ldVxMem => exact s.loadRegs_key _ _

theorem key_of_exec_next (i : Instr) (s t : State) (hexec : exec i s = .next t) : t.key = s.key := by
  rw [← exec_key i s, hexec, resultState]

theorem key_of_step_next (s t : State) (hstep : step s = .next t) : t.key = s.key := by
  obtain ⟨-, ⟨_, -, rfl⟩ | ⟨i, u, -, hexec, rfl⟩⟩ := step_cases s t hstep
  · exact s.malformedStep_key
  · rw [u.finishStep_key, key_of_exec_next i s u hexec]

/-- Settles O54: `exec_key` for every instruction, `step_cases` for every step; `setInput` stores the array itself. -/
theorem latchIsReadOnlyInStep : Obligations.LatchIsReadOnlyInStep := by
  unfold Obligations.LatchIsReadOnlyInStep
  refine ⟨?exec, ?step, ?setInput⟩
  case exec => exact key_of_exec_next
  case step => exact key_of_step_next
  case setInput => exact fun _ _ _ => rfl

end Sys2Proof.Machine
end

section
/-! The host's latch write, reads and redraw clear (60_exceptions.md R148, R149): `perform` runs these four without a
guard on `halted`, so the equations hold in every state. -/

namespace Sys2Proof.Machine

/-- Settles O55: each operation's arm of `perform` is the record update, or the read with the state kept, by definition. -/
theorem hostReadsAndLatch : Obligations.HostReadsAndLatch := by
  unfold Obligations.HostReadsAndLatch
  intro s keys
  refine ⟨?setInput, ?clearRedrawFlag, ?pixelGrid, ?needsRedraw⟩
  case setInput => rfl
  case clearRedrawFlag => rfl
  case pixelGrid => rfl
  case needsRedraw => rfl

end Sys2Proof.Machine
end

section
/-! The host's load (70_reset_and_hazards.md R157): an image that fits the space from 0x200 is stored there byte by byte,
a longer one is refused with the state unchanged. -/

namespace Sys2Proof.Machine

theorem imageFits_iff (bytes : List Byte) : imageFits bytes = true ↔ bytes.length ≤ 3584 :=
  decide_eq_true_iff

theorem State.loadProgram_of_le (s : State) (bytes : List Byte) (hlen : bytes.length ≤ 3584) :
    s.loadProgram bytes = (.ok, s.storeBytes 0x200 bytes) :=
  if_pos ((imageFits_iff bytes).mpr hlen)

theorem State.loadProgram_of_gt (s : State) (bytes : List Byte) (hlen : bytes.length > 3584) :
    s.loadProgram bytes = (.romTooLarge bytes.length, s) :=
  if_neg fun hfits => not_le.mpr hlen ((imageFits_iff bytes).mp hfits)

/-- The host's operation hands on what `loadProgram` answers and leaves (R147). -/
theorem perform_loadProgram_of_eq (s t : State) (bytes : List Byte) (r : LoadReport)
    (hload : s.loadProgram bytes = (r, t)) : perform (.loadProgram bytes) s = (.load r, t) := by
  rw [perform, hload]

/-- Settles O56: `loadProgram` takes one branch by the length; the bytes it stores, fewer than the 4096 addresses, read
back by `readByte_storeBytes`. -/
theorem loadProgramCopiesBytes : Obligations.LoadProgramCopiesBytes := by
  unfold Obligations.LoadProgramCopiesBytes
  intro s bytes hwf
  constructor
  case left =>
    intro hlen
    have hload := s.loadProgram_of_le bytes hlen
    refine ⟨s.storeBytes 0x200 bytes, hload, perform_loadProgram_of_eq s _ bytes _ hload, fun k hk => ?readsBack⟩
    case readsBack => exact s.readByte_storeBytes 0x200 k bytes hwf (by omega) hk
  case right =>
    intro hlen
    have hload := s.loadProgram_of_gt bytes hlen
    exact ⟨hload, perform_loadProgram_of_eq s s bytes _ hload⟩

end Sys2Proof.Machine
end

section
/-! The decoder (30_encoding.md): decoding an encoded instruction, the words that name none, and the rows of the map. -/

namespace Sys2Proof

/-! ### Decoding the word of an instruction -/

/-- The cases are grouped by the shape of the word and the field that selects inside its class (R58). -/
@[simp] theorem decodeWord_encode (i : Instr) : decodeWord (encode i) = .ok i := by
  cases i with
  | cls | ret => rfl
  | jp | call | ldI | jpV0 => simp [encode, decodeWord]
  | seByte | sneByte | ldByte | addByte | rnd | skp | sknp => simp [encode, decodeWord]
  | seReg | sneReg | drw => simp [encode, decodeWord]
  | ldReg | orReg | andReg | xorReg | addReg | subReg | shr | subn | shl => simp [encode, decodeWord, decodeClass8]
  | ldVxDT | ldVxK | ldDTVx | ldSTVx | addIVx | ldFVx | ldBVx | ldMemVx | ldVxMem =>
    simp [encode, decodeWord, decodeClassF]

/-- Settles O1: `decodeWord_encode`; the two bytes of a word are the word again. -/
theorem decodeOfEncode : Obligations.DecodeOfEncode := by
  unfold Obligations.DecodeOfEncode
  intro i rest _
  refine ⟨decodeWord_encode i, ?bytes⟩
  case bytes => simp [decodeBytes]

/-! ### The words that name no instruction (R63) -/

/-- The table of R63, in numbers. -/
def Unrecognized (w : Word) : Prop :=
  (w.toNat < 0x1000 ∧ w ≠ 0x00E0 ∧ w ≠ 0x00EE) ∨
  ((w.toNat / 0x1000 = 0x5 ∨ w.toNat / 0x1000 = 0x9) ∧ w.toNat % 0x10 ≠ 0) ∨
  (w.toNat / 0x1000 = 0x8 ∧ w.toNat % 0x10 ∈ [0x8, 0x9, 0xA, 0xB, 0xC, 0xD, 0xF]) ∨
  (w.toNat / 0x1000 = 0xE ∧ w.toNat % 0x100 ∉ [0x9E, 0xA1]) ∨
  (w.toNat / 0x1000 = 0xF ∧ w.toNat % 0x100 ∉ [0x07, 0x0A, 0x15, 0x18, 0x1E, 0x29, 0x33, 0x55, 0x65])

theorem opField_eq_iff (w : Word) (op : Nibble) : opField w = op ↔ w.toNat / 0x1000 = op.toNat := by
  rw [← BitVec.toNat_inj, opField_toNat]

theorem nField_eq_iff (w : Word) (n : Nibble) : nField w = n ↔ w.toNat % 0x10 = n.toNat := by
  rw [← BitVec.toNat_inj, nField_toNat]

theorem nnField_eq_iff (w : Word) (nn : Byte) : nnField w = nn ↔ w.toNat % 0x100 = nn.toNat := by
  rw [← BitVec.toNat_inj, nnField_toNat]

/-! A word with known fixed fields is built from them and its other fields. -/

theorem wordNNN_of_op {w : Word} {op : Nibble} (hop : opField w = op) : wordNNN op (nnnField w) = w := by
  rw [← hop, wordNNN_fields]

theorem wordXNN_of_op {w : Word} {op : Nibble} (hop : opField w = op) :
    wordXNN op (xField w) (nnField w) = w := by
  rw [← hop, wordXNN_fields]

theorem wordXYN_of_op {w : Word} {op : Nibble} (hop : opField w = op) :
    wordXYN op (xField w) (yField w) (nField w) = w := by
  rw [← hop, wordXYN_fields]

theorem wordXNN_of_op_nn {w : Word} {op : Nibble} {nn : Byte} (hop : opField w = op) (hnn : nnField w = nn) :
    wordXNN op (xField w) nn = w := by
  rw [← hnn, wordXNN_of_op hop]

theorem wordXYN_of_op_n {w : Word} {op n : Nibble} (hop : opField w = op) (hn : nField w = n) :
    wordXYN op (xField w) (yField w) n = w := by
  rw [← hn, wordXYN_of_op hop]

/-- Class 8: a low nibble outside the table of R63 is one of the nine that select an instruction. -/
theorem exists_encode_of_class8 (w : Word) (hop : opField w = 0x8)
    (hn : w.toNat % 0x10 ∉ [0x8, 0x9, 0xA, 0xB, 0xC, 0xD, 0xF]) : ∃ i, encode i = w := by
  have hfield (n : Nibble) (h : w.toNat % 0x10 = n.toNat) : nField w = n := (nField_eq_iff w n).mpr h
  simp only [List.mem_cons, List.not_mem_nil, or_false] at hn
  have hsel : w.toNat % 0x10 = 0x0 ∨ w.toNat % 0x10 = 0x1 ∨ w.toNat % 0x10 = 0x2 ∨ w.toNat % 0x10 = 0x3 ∨
      w.toNat % 0x10 = 0x4 ∨ w.toNat % 0x10 = 0x5 ∨ w.toNat % 0x10 = 0x6 ∨ w.toNat % 0x10 = 0x7 ∨
      w.toNat % 0x10 = 0xE := by omega
  obtain h | h | h | h | h | h | h | h | h := hsel
  · exact ⟨.ldReg _ _, wordXYN_of_op_n hop (hfield 0x0 h)⟩
  · exact ⟨.orReg _ _, wordXYN_of_op_n hop (hfield 0x1 h)⟩
  · exact ⟨.andReg _ _, wordXYN_of_op_n hop (hfield 0x2 h)⟩
  · exact ⟨.xorReg _ _, wordXYN_of_op_n hop (hfield 0x3 h)⟩
  · exact ⟨.addReg _ _, wordXYN_of_op_n hop (hfield 0x4 h)⟩
  · exact ⟨.subReg _ _, wordXYN_of_op_n hop (hfield 0x5 h)⟩
  · exact ⟨.shr _ _, wordXYN_of_op_n hop (hfield 0x6 h)⟩
  · exact ⟨.subn _ _, wordXYN_of_op_n hop (hfield 0x7 h)⟩
  · exact ⟨.shl _ _, wordXYN_of_op_n hop (hfield 0xE h)⟩

/-- Class F: each listed low byte selects an instruction. -/
theorem exists_encode_of_classF (w : Word) (hop : opField w = 0xF)
    (hnn : w.toNat % 0x100 ∈ [0x07, 0x0A, 0x15, 0x18, 0x1E, 0x29, 0x33, 0x55, 0x65]) : ∃ i, encode i = w := by
  simp only [List.mem_cons, List.not_mem_nil, or_false] at hnn
  have hfield (nn : Byte) (h : w.toNat % 0x100 = nn.toNat) : nnField w = nn := (nnField_eq_iff w nn).mpr h
  obtain h | h | h | h | h | h | h | h | h := hnn
  · exact ⟨.ldVxDT _, wordXNN_of_op_nn hop (hfield 0x07 h)⟩
  · exact ⟨.ldVxK _, wordXNN_of_op_nn hop (hfield 0x0A h)⟩
  · exact ⟨.ldDTVx _, wordXNN_of_op_nn hop (hfield 0x15 h)⟩
  · exact ⟨.ldSTVx _, wordXNN_of_op_nn hop (hfield 0x18 h)⟩
  · exact ⟨.addIVx _, wordXNN_of_op_nn hop (hfield 0x1E h)⟩
  · exact ⟨.ldFVx _, wordXNN_of_op_nn hop (hfield 0x29 h)⟩
  · exact ⟨.ldBVx _, wordXNN_of_op_nn hop (hfield 0x33 h)⟩
  · exact ⟨.ldMemVx _, wordXNN_of_op_nn hop (hfield 0x55 h)⟩
  · exact ⟨.ldVxMem _, wordXNN_of_op_nn hop (hfield 0x65 h)⟩

/-- Every word outside the table of R63 is the word of an instruction: a split on the top nibble (R58). -/
theorem exists_encode_of_not_unrecognized (w : Word) (hw : ¬ Unrecognized w) : ∃ i, encode i = w := by
  simp only [Unrecognized, not_or, not_and, not_not] at hw
  obtain ⟨h0, h59, h8, hE, hF⟩ := hw
  have hclass : w.toNat / 0x1000 < 16 := by omega
  interval_cases hk : w.toNat / 0x1000
  · have hlt : w.toNat < 0x1000 := by omega
    by_cases hcls : w = 0x00E0
    · exact ⟨.cls, hcls.symm⟩
    · exact ⟨.ret, (h0 hlt hcls).symm⟩
  · exact ⟨.jp _, wordNNN_of_op ((opField_eq_iff w 0x1).mpr hk)⟩
  · exact ⟨.call _, wordNNN_of_op ((opField_eq_iff w 0x2).mpr hk)⟩
  · exact ⟨.seByte _ _, wordXNN_of_op ((opField_eq_iff w 0x3).mpr hk)⟩
  · exact ⟨.sneByte _ _, wordXNN_of_op ((opField_eq_iff w 0x4).mpr hk)⟩
  · exact ⟨.seReg _ _, wordXYN_of_op_n ((opField_eq_iff w 0x5).mpr hk) ((nField_eq_iff w 0).mpr (h59 (.inl rfl)))⟩
  · exact ⟨.ldByte _ _, wordXNN_of_op ((opField_eq_iff w 0x6).mpr hk)⟩
  · exact ⟨.addByte _ _, wordXNN_of_op ((opField_eq_iff w 0x7).mpr hk)⟩
  · exact exists_encode_of_class8 w ((opField_eq_iff w 0x8).mpr hk) (h8 rfl)
  · exact ⟨.sneReg _ _, wordXYN_of_op_n ((opField_eq_iff w 0x9).mpr hk) ((nField_eq_iff w 0).mpr (h59 (.inr rfl)))⟩
  · exact ⟨.ldI _, wordNNN_of_op ((opField_eq_iff w 0xA).mpr hk)⟩
  · exact ⟨.jpV0 _, wordNNN_of_op ((opField_eq_iff w 0xB).mpr hk)⟩
  · exact ⟨.rnd _ _, wordXNN_of_op ((opField_eq_iff w 0xC).mpr hk)⟩
  · exact ⟨.drw _ _ _, wordXYN_of_op ((opField_eq_iff w 0xD).mpr hk)⟩
  · have hnn := hE rfl
    simp only [List.mem_cons, List.not_mem_nil, or_false] at hnn
    obtain h | h := hnn
    · exact ⟨.skp _, wordXNN_of_op_nn ((opField_eq_iff w 0xE).mpr hk) ((nnField_eq_iff w 0x9E).mpr h)⟩
    · exact ⟨.sknp _, wordXNN_of_op_nn ((opField_eq_iff w 0xE).mpr hk) ((nnField_eq_iff w 0xA1).mpr h)⟩
  · exact exists_encode_of_classF w ((opField_eq_iff w 0xF).mpr hk) (hF rfl)

theorem decodeWord_of_unrecognized (w : Word) (hw : Unrecognized w) :
    decodeWord w = .error (.malformedOpcode w) := by
  obtain ⟨hlt, hcls, hret⟩ | ⟨hop, hn⟩ | ⟨hop, hn⟩ | ⟨hop, hnn⟩ | ⟨hop, hnn⟩ := hw
  · have hop : (opField w).toNat = 0 := by rw [opField_toNat]; omega
    simp only [decodeWord, hop, if_neg hcls, if_neg hret]
  · rw [← opField_toNat] at hop
    have hn : nField w ≠ 0 := fun h => hn ((nField_eq_iff w 0).mp h)
    obtain hop | hop := hop <;> simp only [decodeWord, hop, if_neg hn]
  · rw [← opField_toNat] at hop
    rw [← nField_toNat] at hn
    simp only [List.mem_cons, List.not_mem_nil, or_false] at hn
    obtain h | h | h | h | h | h | h := hn <;> simp only [decodeWord, decodeClass8, hop, h]
  · rw [← opField_toNat] at hop
    rw [← nnField_toNat] at hnn
    have hne (nn : Byte) (h : nn.toNat ∈ [0x9E, 0xA1]) : nnField w ≠ nn := by rintro rfl; exact hnn h
    simp [decodeWord, hop, hne]
  · rw [← opField_toNat] at hop
    rw [← nnField_toNat] at hnn
    have hne (nn : Byte) (h : nn.toNat ∈ [0x07, 0x0A, 0x15, 0x18, 0x1E, 0x29, 0x33, 0x55, 0x65]) :
        nnField w ≠ nn := by rintro rfl; exact hnn h
    simp [decodeWord, decodeClassF, hop, hne]

theorem decodeWord_eq_ok_iff (w : Word) (i : Instr) : decodeWord w = .ok i ↔ encode i = w := by
  constructor
  · intro h
    by_cases hw : Unrecognized w
    · rw [decodeWord_of_unrecognized w hw] at h
      cases h
    · obtain ⟨j, rfl⟩ := exists_encode_of_not_unrecognized w hw
      rw [decodeWord_encode] at h
      cases h
      rfl
  · rintro rfl
    exact decodeWord_encode i

theorem decodeWord_eq_error_iff (w : Word) (e : Reject) :
    decodeWord w = .error e ↔ Unrecognized w ∧ e = .malformedOpcode w := by
  by_cases hw : Unrecognized w
  · simp [decodeWord_of_unrecognized w hw, hw, eq_comm]
  · obtain ⟨j, rfl⟩ := exists_encode_of_not_unrecognized w hw
    simp [hw]

/-- Settles O2: `decodeWord_eq_ok_iff`. -/
theorem encodeOfDecode : Obligations.EncodeOfDecode := by
  unfold Obligations.EncodeOfDecode
  exact fun w i => (decodeWord_eq_ok_iff w i).mp

/-- Settles O5: the table is `Unrecognized`, and `decodeWord_eq_error_iff` gives both the words and their rejection. -/
theorem unrecognizedWords : Obligations.UnrecognizedWords := by
  unfold Obligations.UnrecognizedWords
  intro w
  refine ⟨?table, fun e he => ((decodeWord_eq_error_iff w e).mp he).2⟩
  case table =>
    change _ ↔ Unrecognized w
    simp [decodeWord_eq_error_iff]

/-- Settles O3: each word is evaluated. -/
theorem specWordsDecode : Obligations.SpecWordsDecode := by
  unfold Obligations.SpecWordsDecode
  decide

/-! ### The rows of the opcode map (R59) -/

theorem wordNNN_and (op op' : Nibble) (nnn nnn' : Addr) :
    wordNNN op nnn &&& wordNNN op' nnn' = wordNNN (op &&& op') (nnn &&& nnn') :=
  BitVec.and_append

theorem wordXNN_and (op x op' x' : Nibble) (nn nn' : Byte) :
    wordXNN op x nn &&& wordXNN op' x' nn' = wordXNN (op &&& op') (x &&& x') (nn &&& nn') :=
  BitVec.and_append.trans (congrArg (· ++ (nn &&& nn')) BitVec.and_append)

theorem wordXYN_and (op x y n op' x' y' n' : Nibble) :
    wordXYN op x y n &&& wordXYN op' x' y' n' = wordXYN (op &&& op') (x &&& x') (y &&& y') (n &&& n') :=
  BitVec.and_append.trans (congrArg (· ++ (n &&& n')) (BitVec.and_append.trans
    (congrArg (· ++ (y &&& y')) BitVec.and_append)))

/-! A masked word is a row's pattern exactly when it has the row's fixed fields. -/

theorem and_maskOp_eq_iff (w : Word) (op : Nibble) : w &&& 0xF000 = wordNNN op 0 ↔ opField w = op := by
  have hmask : w &&& 0xF000 = wordNNN (opField w) 0 := by
    conv_lhs => rw [← wordNNN_fields w, show (0xF000 : Word) = wordNNN 0xF 0 by decide, wordNNN_and]
    congr 1
    · exact BitVec.and_allOnes
    · exact BitVec.and_zero
  rw [hmask]
  constructor
  · intro h
    simpa using congrArg opField h
  · rintro rfl
    rfl

theorem and_maskOpNn_eq_iff (w : Word) (op : Nibble) (nn : Byte) :
    w &&& 0xF0FF = wordXNN op 0 nn ↔ opField w = op ∧ nnField w = nn := by
  have hmask : w &&& 0xF0FF = wordXNN (opField w) 0 (nnField w) := by
    conv_lhs => rw [← wordXNN_fields w, show (0xF0FF : Word) = wordXNN 0xF 0 0xFF by decide, wordXNN_and]
    congr 1
    · exact BitVec.and_allOnes
    · exact BitVec.and_zero
    · exact BitVec.and_allOnes
  rw [hmask]
  constructor
  · intro h
    exact ⟨by simpa using congrArg opField h, by simpa using congrArg nnField h⟩
  · rintro ⟨rfl, rfl⟩
    rfl

theorem and_maskOpN_eq_iff (w : Word) (op n : Nibble) :
    w &&& 0xF00F = wordXYN op 0 0 n ↔ opField w = op ∧ nField w = n := by
  have hmask : w &&& 0xF00F = wordXYN (opField w) 0 0 (nField w) := by
    conv_lhs => rw [← wordXYN_fields w, show (0xF00F : Word) = wordXYN 0xF 0 0 0xF by decide, wordXYN_and]
    congr 1
    · exact BitVec.and_allOnes
    · exact BitVec.and_zero
    · exact BitVec.and_zero
    · exact BitVec.and_allOnes
  rw [hmask]
  constructor
  · intro h
    exact ⟨by simpa using congrArg opField h, by simpa using congrArg nField h⟩
  · rintro ⟨rfl, rfl⟩
    rfl

/-- The word of an instruction has the fixed fields of its row. -/
theorem encode_and_mask (i : Instr) : encode i &&& (opcodeRow i).mask = (opcodeRow i).pattern := by
  cases i with
  | cls | ret => rfl
  | jp | call | ldI | jpV0 => exact (and_maskOp_eq_iff _ _).mpr (opField_wordNNN _ _)
  | seByte | sneByte | ldByte | addByte | rnd => exact (and_maskOp_eq_iff _ _).mpr (opField_wordXNN _ _ _)
  | drw => exact (and_maskOp_eq_iff _ _).mpr (opField_wordXYN _ _ _ _)
  | seReg | ldReg | orReg | andReg | xorReg | addReg | subReg | shr | subn | shl | sneReg =>
    exact (and_maskOpN_eq_iff _ _ _).mpr ⟨opField_wordXYN _ _ _ _, nField_wordXYN _ _ _ _⟩
  | skp | sknp | ldVxDT | ldVxK | ldDTVx | ldSTVx | addIVx | ldFVx | ldBVx | ldMemVx | ldVxMem =>
    exact (and_maskOpNn_eq_iff _ _ _).mpr ⟨opField_wordXNN _ _ _, nnField_wordXNN _ _ _⟩

/-- A word with the fixed fields of a row is the word of an instruction of that row, with its other fields as the
operands. -/
theorem exists_encode_of_and_mask (i : Instr) (w : Word) (h : w &&& (opcodeRow i).mask = (opcodeRow i).pattern) :
    ∃ j, encode j = w ∧ opcodeRow j = opcodeRow i := by
  have hop (op : Nibble) (h : w &&& 0xF000 = wordNNN op 0) : opField w = op := (and_maskOp_eq_iff w op).mp h
  have hopN (op n : Nibble) (h : w &&& 0xF00F = wordXYN op 0 0 n) :
      wordXYN op (xField w) (yField w) n = w := by
    obtain ⟨h1, h2⟩ := (and_maskOpN_eq_iff w op n).mp h
    exact wordXYN_of_op_n h1 h2
  have hopNn (op : Nibble) (nn : Byte) (h : w &&& 0xF0FF = wordXNN op 0 nn) : wordXNN op (xField w) nn = w := by
    obtain ⟨h1, h2⟩ := (and_maskOpNn_eq_iff w op nn).mp h
    exact wordXNN_of_op_nn h1 h2
  cases i with
  | cls => exact ⟨.cls, h.symm.trans BitVec.and_allOnes, rfl⟩
  | ret => exact ⟨.ret, h.symm.trans BitVec.and_allOnes, rfl⟩
  | jp => exact ⟨.jp _, wordNNN_of_op (hop _ h), rfl⟩
  | call => exact ⟨.call _, wordNNN_of_op (hop _ h), rfl⟩
  | ldI => exact ⟨.ldI _, wordNNN_of_op (hop _ h), rfl⟩
  | jpV0 => exact ⟨.jpV0 _, wordNNN_of_op (hop _ h), rfl⟩
  | seByte => exact ⟨.seByte _ _, wordXNN_of_op (hop _ h), rfl⟩
  | sneByte => exact ⟨.sneByte _ _, wordXNN_of_op (hop _ h), rfl⟩
  | ldByte => exact ⟨.ldByte _ _, wordXNN_of_op (hop _ h), rfl⟩
  | addByte => exact ⟨.addByte _ _, wordXNN_of_op (hop _ h), rfl⟩
  | rnd => exact ⟨.rnd _ _, wordXNN_of_op (hop _ h), rfl⟩
  | drw => exact ⟨.drw _ _ _, wordXYN_of_op (hop _ h), rfl⟩
  | seReg => exact ⟨.seReg _ _, hopN _ _ h, rfl⟩
  | sneReg => exact ⟨.sneReg _ _, hopN _ _ h, rfl⟩
  | ldReg => exact ⟨.ldReg _ _, hopN _ _ h, rfl⟩
  | orReg => exact ⟨.orReg _ _, hopN _ _ h, rfl⟩
  | andReg => exact ⟨.andReg _ _, hopN _ _ h, rfl⟩
  | xorReg => exact ⟨.xorReg _ _, hopN _ _ h, rfl⟩
  | addReg => exact ⟨.addReg _ _, hopN _ _ h, rfl⟩
  | subReg => exact ⟨.subReg _ _, hopN _ _ h, rfl⟩
  | shr => exact ⟨.shr _ _, hopN _ _ h, rfl⟩
  | subn => exact ⟨.subn _ _, hopN _ _ h, rfl⟩
  | shl => exact ⟨.shl _ _, hopN _ _ h, rfl⟩
  | skp => exact ⟨.skp _, hopNn _ _ h, rfl⟩
  | sknp => exact ⟨.sknp _, hopNn _ _ h, rfl⟩
  | ldVxDT => exact ⟨.ldVxDT _, hopNn _ _ h, rfl⟩
  | ldVxK => exact ⟨.ldVxK _, hopNn _ _ h, rfl⟩
  | ldDTVx => exact ⟨.ldDTVx _, hopNn _ _ h, rfl⟩
  | ldSTVx => exact ⟨.ldSTVx _, hopNn _ _ h, rfl⟩
  | addIVx => exact ⟨.addIVx _, hopNn _ _ h, rfl⟩
  | ldFVx => exact ⟨.ldFVx _, hopNn _ _ h, rfl⟩
  | ldBVx => exact ⟨.ldBVx _, hopNn _ _ h, rfl⟩
  | ldMemVx => exact ⟨.ldMemVx _, hopNn _ _ h, rfl⟩
  | ldVxMem => exact ⟨.ldVxMem _, hopNn _ _ h, rfl⟩

/-- A word matches the row of an instruction exactly when it decodes to an instruction of that row. -/
theorem and_mask_eq_pattern_iff (i : Instr) (w : Word) :
    w &&& (opcodeRow i).mask = (opcodeRow i).pattern ↔ ∃ j, decodeWord w = .ok j ∧ opcodeRow j = opcodeRow i := by
  simp only [decodeWord_eq_ok_iff]
  constructor
  · exact exists_encode_of_and_mask i w
  · rintro ⟨j, rfl, hrow⟩
    rw [← hrow]
    exact encode_and_mask j

theorem exists_opcodeRow_of_mem : ∀ r ∈ opcodeMap, ∃ i, opcodeRow i = r := by
  simp only [opcodeMap, List.forall_mem_cons, exists_apply_eq_apply, true_and]
  exact fun r hr => absurd hr List.not_mem_nil

/-- Settles O6: each row is an instruction's, so that `and_mask_eq_pattern_iff` applies; two rows that a word matches
are the row of the one instruction it decodes to. -/
theorem opcodeMapDecides : Obligations.OpcodeMapDecides := by
  unfold Obligations.OpcodeMapDecides
  have hrow (w : Word) (r : Row) (hr : r ∈ opcodeMap) :
      w &&& r.mask = r.pattern ↔ ∃ i, decodeWord w = .ok i ∧ opcodeRow i = r := by
    obtain ⟨i, rfl⟩ := exists_opcodeRow_of_mem r hr
    exact and_mask_eq_pattern_iff i w
  refine ⟨rfl, hrow, fun w r q hr hq hwr hwq => ?unique⟩
  case unique =>
    obtain ⟨i, hi, rfl⟩ := (hrow w r hr).mp hwr
    obtain ⟨j, hj, rfl⟩ := (hrow w q hq).mp hwq
    cases hi.symm.trans hj
    rfl

end Sys2Proof
end

section
/-! What each instruction answers (40_cycle.md R74): the meanings with more than one outcome, and the next state that
every instruction and every step of a running core has. -/

namespace Sys2Proof.Machine

open Sys2Proof.Safety

/-! ### The meanings with more than one outcome -/

theorem execRet_cases (s : State) :
    (s.SP.val = 0 ∧ exec .ret s = .next (s.raiseFatal .stackUnderflow (encode .ret))) ∨
    (∃ h : 0 < s.SP.val, exec .ret s =
      .next ({ s with SP := ⟨s.SP.val - 1, by omega⟩ }.setPc ((s.stack[s.SP.val - 1]'(by omega)).toNat + 2))) := by
  obtain ⟨hsp, hpop⟩ | ⟨hsp, hpop⟩ := s.pop_cases
  · exact .inl ⟨hsp, by simp [exec, execRet, hpop]⟩
  · exact .inr ⟨hsp, by simp [exec, execRet, hpop]⟩

theorem execCall_cases (nnn : Addr) (s : State) :
    (s.SP.val = 16 ∧ exec (.call nnn) s = .next (s.raiseFatal .stackOverflow (encode (.call nnn)))) ∨
    (∃ h : s.SP.val < 16, exec (.call nnn) s =
      .next ({ s with stack := s.stack.set s.SP.val s.pc h, SP := ⟨s.SP.val + 1, by omega⟩ }.setPc nnn.toNat)) := by
  obtain ⟨hsp, hpush⟩ | ⟨hsp, hpush⟩ := s.push_cases s.pc
  · exact .inl ⟨hsp, by simp [exec, execCall, hpush]⟩
  · exact .inr ⟨hsp, by simp [exec, execCall, hpush]⟩

theorem execSkp_cases (x : Nibble) (s : State) :
    (exec (.skp x) s = .next (s.skipIf (s.getKey ((s.getV x).extractLsb' 0 4))) ∧
      ((s.getV x).toNat < 16 ∨ s.params.keyIndexPolicy = .lowNibble)) ∨
    (exec (.skp x) s = .next (s.raiseFatal .keyIndexOutOfRange (encode (.skp x))) ∧
      16 ≤ (s.getV x).toNat ∧ s.params.keyIndexPolicy = .fault) := by
  obtain ⟨hkey, hvalid⟩ | ⟨hkey, hinvalid⟩ := keyIndex_cases s.params.keyIndexPolicy (s.getV x)
  · exact .inl ⟨by simp [exec, execSkp, hkey], hvalid⟩
  · exact .inr ⟨by simp [exec, execSkp, hkey], hinvalid⟩

theorem execSknp_cases (x : Nibble) (s : State) :
    (exec (.sknp x) s = .next (s.skipIf (!s.getKey ((s.getV x).extractLsb' 0 4))) ∧
      ((s.getV x).toNat < 16 ∨ s.params.keyIndexPolicy = .lowNibble)) ∨
    (exec (.sknp x) s = .next (s.raiseFatal .keyIndexOutOfRange (encode (.sknp x))) ∧
      16 ≤ (s.getV x).toNat ∧ s.params.keyIndexPolicy = .fault) := by
  obtain ⟨hkey, hvalid⟩ | ⟨hkey, hinvalid⟩ := keyIndex_cases s.params.keyIndexPolicy (s.getV x)
  · exact .inl ⟨by simp [exec, execSknp, hkey], hvalid⟩
  · exact .inr ⟨by simp [exec, execSknp, hkey], hinvalid⟩

theorem execLdVxK_cases (x : Nibble) (s : State) :
    (exec (.ldVxK x) s = .next s ∧ ∀ k, s.getKey k = false) ∨
    (∃ k : Nibble, exec (.ldVxK x) s = .next (s.writeReg x (BitVec.ofNat 8 k.toNat)) ∧ s.getKey k = true ∧
      ∀ j : Nibble, j.toNat < k.toNat → s.getKey j = false) := by
  obtain ⟨hkey, hnone⟩ | ⟨k, hkey, hlowest⟩ := s.lowestPressed_cases
  · exact .inl ⟨by simp [exec, execLdVxK, hkey], hnone⟩
  · exact .inr ⟨k, by simp [exec, execLdVxK, hkey, State.writeReg], hlowest⟩

theorem exec_ret_of_empty {s : State} (hsp : s.SP.val = 0) :
    exec .ret s = .next (s.raiseFatal .stackUnderflow (encode .ret)) := by
  obtain ⟨-, h⟩ | ⟨hpos, -⟩ := execRet_cases s
  · exact h
  · omega

theorem exec_ret_of_pos {s : State} (hsp : 0 < s.SP.val) : exec .ret s =
    .next ({ s with SP := ⟨s.SP.val - 1, by omega⟩ }.setPc ((s.stack[s.SP.val - 1]'(by omega)).toNat + 2)) := by
  obtain ⟨hzero, -⟩ | ⟨_, h⟩ := execRet_cases s
  · omega
  · exact h

theorem exec_call_of_full {nnn : Addr} {s : State} (hsp : s.SP.val = 16) :
    exec (.call nnn) s = .next (s.raiseFatal .stackOverflow (encode (.call nnn))) := by
  obtain ⟨-, h⟩ | ⟨hlt, -⟩ := execCall_cases nnn s
  · exact h
  · omega

theorem exec_call_of_lt {nnn : Addr} {s : State} (hsp : s.SP.val < 16) : exec (.call nnn) s =
    .next ({ s with stack := s.stack.set s.SP.val s.pc hsp, SP := ⟨s.SP.val + 1, by omega⟩ }.setPc nnn.toNat) := by
  obtain ⟨hfull, -⟩ | ⟨_, h⟩ := execCall_cases nnn s
  · omega
  · exact h

/-! ### Every instruction has a next state -/

/-- The state an instruction's execution leaves. -/
def execState (i : Instr) (s : State) : State := resultState s (exec i s)

theorem execState_of_exec {i : Instr} {s t : State} (h : exec i s = .next t) : execState i s = t := by
  rw [execState, h, resultState]

/-- Only the meanings that test something before they write have more than one outcome. -/
theorem exec_next (i : Instr) (s : State) : exec i s = .next (execState i s) := by
  have hnext : ∃ t, exec i s = .next t := by
    cases i with
    | ret => obtain ⟨-, h⟩ | ⟨_, h⟩ := execRet_cases s <;> exact ⟨_, h⟩
    | call nnn => obtain ⟨-, h⟩ | ⟨_, h⟩ := execCall_cases nnn s <;> exact ⟨_, h⟩
    | skp x => obtain ⟨h, -⟩ | ⟨h, -⟩ := execSkp_cases x s <;> exact ⟨_, h⟩
    | sknp x => obtain ⟨h, -⟩ | ⟨h, -⟩ := execSknp_cases x s <;> exact ⟨_, h⟩
    | ldVxK x => obtain ⟨h, -⟩ | ⟨_, h, -⟩ := execLdVxK_cases x s <;> exact ⟨_, h⟩
    | _ => exact ⟨_, rfl⟩
  obtain ⟨t, h⟩ := hnext
  rw [execState_of_exec h, h]

theorem step_of_decodeWord_ok {s : State} {i : Instr} (hhalt : s.halt = none) (hdec : decodeWord s.fetchWord = .ok i) :
    step s = .next (execState i s).finishStep := by
  simp only [step, hhalt, hdec, exec_next, finishResult]

theorem step_of_decodeWord_error {s : State} {e : Reject} (hhalt : s.halt = none)
    (hdec : decodeWord s.fetchWord = .error e) : step s = .next s.malformedStep := by
  simp only [step, hhalt, hdec]

theorem step_of_halt {s : State} {f : Fault} (hhalt : s.halt = some f) : step s = .fault f := by
  simp only [step, hhalt]

/-- Settles O15: `exec_next`; a running core steps by it, or over the unrecognized word. -/
theorem everyInstructionRuns : Obligations.EveryInstructionRuns := by
  unfold Obligations.EveryInstructionRuns
  refine ⟨fun i s => ⟨_, exec_next i s⟩, fun s hhalt => ?step⟩
  case step =>
    cases hdec : decodeWord s.fetchWord with
    | ok i => exact ⟨_, step_of_decodeWord_ok hhalt hdec⟩
    | error e => exact ⟨_, step_of_decodeWord_error hhalt hdec⟩

/-- Settles O7: the step ends the one next state that the execution has. -/
theorem stepRunsDecodedInstruction : Obligations.StepRunsDecodedInstruction := by
  unfold Obligations.StepRunsDecodedInstruction
  intro s t i hhalt hdec _ hexec
  rw [step_of_decodeWord_ok hhalt hdec, execState_of_exec hexec]

end Sys2Proof.Machine
end

section
/-! Frames (10_state.md R35): what each update of the state leaves unchanged, and from it what each instruction does. -/

namespace Sys2Proof.Safety

open Sys2Proof.Machine

theorem KeepsAllBut.mono {l l' : List Part} {s t : State} (h : KeepsAllBut l s t) (hsub : l ⊆ l') :
    KeepsAllBut l' s t :=
  fun p hp => h p fun hp' => hp (hsub hp')

theorem Part.same_trans {p : Part} {s t u : State} (hst : p.same s t) (htu : p.same t u) : p.same s u := by
  cases p with
  | mem | V => exact fun a => (htu a).trans (hst a)
  | _ => exact Eq.trans htu hst

theorem KeepsAllBut.trans {l l' : List Part} {s t u : State} (hst : KeepsAllBut l s t) (htu : KeepsAllBut l' t u) :
    KeepsAllBut (l ++ l') s u := fun p hp =>
  Part.same_trans (hst p fun h => hp (List.mem_append_left _ h)) (htu p fun h => hp (List.mem_append_right _ h))

theorem KeepsAllBut.refl (l : List Part) (s : State) : KeepsAllBut l s s := fun p _ => by
  cases p with
  | mem | V => exact fun _ => rfl
  | _ => rfl

end Sys2Proof.Safety

namespace Sys2Proof.Machine

open Sys2Proof.Safety

theorem keepsAllBut_setPc (s : State) (n : Nat) : KeepsAllBut [.pc] s (s.setPc n) := by
  intro p hp
  cases p <;> simp_all [Part.same]

theorem keepsAllBut_setI (s : State) (n : Nat) : KeepsAllBut [.I] s (s.setI n) := by
  intro p hp
  cases p <;> simp_all [Part.same]

theorem keepsAllBut_storeBytes (s : State) (a : Nat) (l : List Byte) : KeepsAllBut [.mem] s (s.storeBytes a l) := by
  intro p hp
  cases p <;> simp_all [Part.same]

theorem keepsAllBut_loadRegs (s : State) (b n : Nat) : KeepsAllBut [.V] s (s.loadRegs b n) := by
  intro p hp
  cases p <;> simp_all [Part.same]

theorem keepsAllBut_setVF (s : State) (b : Bool) : KeepsAllBut [.V] s (s.setVF b) := by
  intro p hp
  cases p <;> simp_all [Part.same]

theorem keepsAllBut_raiseFatal (s : State) (kind : Word → Word → Fault) (w : Word) :
    KeepsAllBut [.halt] s (s.raiseFatal kind w) := by
  intro p hp
  cases p <;> simp_all [Part.same]

theorem keepsAllBut_decrementTimers (s : State) : KeepsAllBut [.DT, .ST] s s.decrementTimers := by
  intro p hp
  cases p <;> simp_all [Part.same]

theorem keepsAllBut_display (s : State) (g : Grid) (b : Bool) :
    KeepsAllBut [.grid, .redraw] s { s with grid := g, redraw := b } := by
  intro p hp
  cases p <;> simp_all [Part.same, State.readByte, State.getV]

theorem keepsAllBut_stack_SP (s : State) (stack : Vector Word 16) (sp : Fin 17) :
    KeepsAllBut [.stack, .SP] s { s with stack := stack, SP := sp } := by
  intro p hp
  cases p <;> simp_all [Part.same, State.readByte, State.getV]

theorem keepsAllBut_SP (s : State) (sp : Fin 17) : KeepsAllBut [.SP] s { s with SP := sp } := by
  intro p hp
  cases p <;> simp_all [Part.same, State.readByte, State.getV]

theorem keepsAllBut_DT (s : State) (v : Byte) : KeepsAllBut [.DT] s { s with DT := v } := by
  intro p hp
  cases p <;> simp_all [Part.same, State.readByte, State.getV]

theorem keepsAllBut_ST (s : State) (v : Byte) : KeepsAllBut [.ST] s { s with ST := v } := by
  intro p hp
  cases p <;> simp_all [Part.same, State.readByte, State.getV]

theorem keepsAllBut_draws (s : State) (n : Nat) : KeepsAllBut [.draws] s { s with draws := n } := by
  intro p hp
  cases p <;> simp_all [Part.same, State.readByte, State.getV]

theorem keepsAllBut_writeReg (s : State) (x : Nibble) (v : Byte) : KeepsAllBut [.V, .pc] s (s.writeReg x v) := by
  obtain ⟨-, -, -, hkeeps⟩ := writeReg_spec s x v
  exact hkeeps

theorem keepsAllBut_writeFlagged (s : State) (x : Nibble) (b : Bool) (v : Byte) :
    KeepsAllBut [.V, .pc] s (s.writeFlagged x b v) := by
  obtain ⟨-, -, -, -, -, hkeeps⟩ := writeFlagged_spec s x b v
  exact hkeeps

/-- The end of every meaning that changes the parts `l` and then advances pc. -/
theorem keepsAllBut_advance {l : List Part} {s t : State} (h : KeepsAllBut l s t) (k : Nat) :
    KeepsAllBut (l ++ [.pc]) s (t.advance k) :=
  h.trans (keepsAllBut_setPc t _)

/-! ### Every instruction -/

theorem execState_keepsAllBut (i : Instr) (s : State) : KeepsAllBut (writes i) s (execState i s) := by
  cases i with
  | cls => exact (keepsAllBut_advance (keepsAllBut_display s _ _) 2).mono (by simp [writes])
  | drw x y n =>
    exact (keepsAllBut_advance ((keepsAllBut_display s _ _).trans (keepsAllBut_setVF _ _)) 2).mono (by simp [writes])
  | jp | jpV0 | seByte | sneByte | seReg | sneReg => exact keepsAllBut_setPc s _
  | ret =>
    obtain ⟨-, h⟩ | ⟨_, h⟩ := execRet_cases s <;> rw [execState_of_exec h]
    · exact (keepsAllBut_raiseFatal s _ _).mono (by simp [writes])
    · exact ((keepsAllBut_SP s _).trans (keepsAllBut_setPc _ _)).mono (by simp [writes])
  | call nnn =>
    obtain ⟨-, h⟩ | ⟨_, h⟩ := execCall_cases nnn s <;> rw [execState_of_exec h]
    · exact (keepsAllBut_raiseFatal s _ _).mono (by simp [writes])
    · exact ((keepsAllBut_stack_SP s _ _).trans (keepsAllBut_setPc _ _)).mono (by simp [writes])
  | skp x =>
    obtain ⟨h, -⟩ | ⟨h, -⟩ := execSkp_cases x s <;> rw [execState_of_exec h]
    · exact (keepsAllBut_setPc s _).mono (by simp [writes])
    · exact (keepsAllBut_raiseFatal s _ _).mono (by simp [writes])
  | sknp x =>
    obtain ⟨h, -⟩ | ⟨h, -⟩ := execSknp_cases x s <;> rw [execState_of_exec h]
    · exact (keepsAllBut_setPc s _).mono (by simp [writes])
    · exact (keepsAllBut_raiseFatal s _ _).mono (by simp [writes])
  | ldByte | addByte | ldReg | orReg | andReg | xorReg | ldVxDT =>
    exact (keepsAllBut_writeReg s _ _).mono (by simp [writes])
  | addReg | subReg | shr | subn | shl => exact (keepsAllBut_writeFlagged s _ _ _).mono (by simp [writes])
  | rnd => exact ((keepsAllBut_draws s _).trans (keepsAllBut_writeReg _ _ _)).mono (by simp [writes])
  | ldVxK x =>
    obtain ⟨h, -⟩ | ⟨_, h, -⟩ := execLdVxK_cases x s <;> rw [execState_of_exec h]
    · exact KeepsAllBut.refl _ s
    · exact (keepsAllBut_writeReg s _ _).mono (by simp [writes])
  | ldDTVx => exact (keepsAllBut_advance (keepsAllBut_DT s _) 2).mono (by simp [writes])
  | ldSTVx => exact (keepsAllBut_advance (keepsAllBut_ST s _) 2).mono (by simp [writes])
  | ldI | ldFVx => exact (keepsAllBut_advance (keepsAllBut_setI s _) 2).mono (by simp [writes])
  | addIVx =>
    exact (keepsAllBut_advance ((keepsAllBut_setVF s _).trans (keepsAllBut_setI _ _)) 2).mono (by simp [writes])
  | ldBVx | ldMemVx => exact (keepsAllBut_advance (keepsAllBut_storeBytes s _ _) 2).mono (by simp [writes])
  | ldVxMem => exact (keepsAllBut_advance (keepsAllBut_loadRegs s _ _) 2).mono (by simp [writes])

/-- Settles O21: `execState_keepsAllBut`. -/
theorem instructionsWriteOnlyTheirParts : Obligations.InstructionsWriteOnlyTheirParts := by
  unfold Obligations.InstructionsWriteOnlyTheirParts
  intro i s t hexec
  rw [← execState_of_exec hexec]
  exact execState_keepsAllBut i s

end Sys2Proof.Machine
end

section
/-! The invariant of the state (10_state.md R34): every update, every instruction, every step and every host operation
keeps it. -/

namespace Sys2Proof.Machine

open Sys2Proof.Safety

/-! ### Updates -/

theorem stateInv_setPc {s : State} (h : StateInv s) (n : Nat) : StateInv (s.setPc n) := by
  obtain ⟨-, hrest⟩ := h
  exact ⟨addr12_le n, hrest⟩

theorem stateInv_setI {s : State} (h : StateInv s) (n : Nat) : StateInv (s.setI n) := by
  obtain ⟨hpc, -, hrest⟩ := h
  exact ⟨hpc, addr12_le n, hrest⟩

theorem stateInv_setV {s : State} (h : StateInv s) (x : Nibble) (v : Byte) : StateInv (s.setV x v) := h

theorem stateInv_setFlagAndResult {s : State} (h : StateInv s) (x : Nibble) (b : Bool) (v : Byte) :
    StateInv (s.setFlagAndResult x b v) := by
  rw [State.setFlagAndResult_eq]
  exact h

theorem stateInv_loadRegs {s : State} (h : StateInv s) (b n : Nat) : StateInv (s.loadRegs b n) := by
  rw [State.loadRegs_eq]
  exact h

theorem stateInv_storeBytes {s : State} (h : StateInv s) (a : Nat) (l : List Byte) : StateInv (s.storeBytes a l) := by
  rw [State.storeBytes_eq]
  obtain ⟨hpc, hI, hstack, hhalt, hmem⟩ := h
  exact ⟨hpc, hI, hstack, hhalt, s.storeBytes_wf a l hmem⟩

theorem stateInv_finishStep {s : State} (h : StateInv s) : StateInv s.finishStep := by
  rw [State.finishStep_eq]
  exact h

/-- A fatal fault records pc. -/
theorem stateInv_raiseFatal {s : State} (h : StateInv s) {kind : Word → Word → Fault}
    (hkind : ∀ pc w, (kind pc w).pc = pc) (w : Word) : StateInv (s.raiseFatal kind w) := by
  obtain ⟨hpc, hI, hstack, -, hmem⟩ := h
  refine ⟨hpc, hI, hstack, fun f hf => ?_, hmem⟩
  obtain rfl := Option.mem_some_iff.mp hf
  rw [hkind]
  exact hpc

/-- The slot that a push fills holds pc, an address. -/
theorem stateInv_push {s : State} (h : StateInv s) (k : Nat) (hk : k < 16) (sp : Fin 17) :
    StateInv { s with stack := s.stack.set k s.pc hk, SP := sp } := by
  obtain ⟨hpc, hI, hstack, hrest⟩ := h
  refine ⟨hpc, hI, fun j => ?_, hrest⟩
  simp only [Vector.getElem_set]
  split
  · exact hpc
  · exact hstack j

/-! ### Instructions and steps -/

/-- The cases are grouped by the updates that make up the meaning. -/
theorem stateInv_execState {s : State} (h : StateInv s) (i : Instr) : StateInv (execState i s) := by
  cases i with
  | cls | drw | ldDTVx | ldSTVx | jp | jpV0 | seByte | sneByte | seReg | sneReg => exact stateInv_setPc h _
  | ldByte | addByte | ldReg | orReg | andReg | xorReg | ldVxDT | rnd => exact stateInv_setPc h _
  | addReg | subReg | shr | subn | shl => exact stateInv_setPc (stateInv_setFlagAndResult h _ _ _) _
  | ldI | ldFVx => exact stateInv_setPc (stateInv_setI h _) _
  | addIVx => exact stateInv_setPc (stateInv_setI (stateInv_setV h _ _) _) _
  | ldBVx | ldMemVx => exact stateInv_setPc (stateInv_storeBytes h _ _) _
  | ldVxMem => exact stateInv_setPc (stateInv_loadRegs h _ _) _
  | ret =>
    obtain ⟨-, hexec⟩ | ⟨_, hexec⟩ := execRet_cases s <;> rw [execState_of_exec hexec]
    · exact stateInv_raiseFatal h (fun _ _ => rfl) _
    · exact stateInv_setPc h _
  | call nnn =>
    obtain ⟨-, hexec⟩ | ⟨_, hexec⟩ := execCall_cases nnn s <;> rw [execState_of_exec hexec]
    · exact stateInv_raiseFatal h (fun _ _ => rfl) _
    · exact stateInv_setPc (stateInv_push h _ _ _) _
  | skp x =>
    obtain ⟨hexec, -⟩ | ⟨hexec, -⟩ := execSkp_cases x s <;> rw [execState_of_exec hexec]
    · exact stateInv_setPc h _
    · exact stateInv_raiseFatal h (fun _ _ => rfl) _
  | sknp x =>
    obtain ⟨hexec, -⟩ | ⟨hexec, -⟩ := execSknp_cases x s <;> rw [execState_of_exec hexec]
    · exact stateInv_setPc h _
    · exact stateInv_raiseFatal h (fun _ _ => rfl) _
  | ldVxK x =>
    obtain ⟨hexec, -⟩ | ⟨_, hexec, -⟩ := execLdVxK_cases x s <;> rw [execState_of_exec hexec]
    · exact h
    · exact stateInv_setPc h _

theorem stateInv_of_step {s t : State} (h : StateInv s) (hstep : step s = .next t) : StateInv t := by
  obtain ⟨-, ⟨_, -, rfl⟩ | ⟨i, u, -, hexec, rfl⟩⟩ := step_cases s t hstep
  · exact stateInv_finishStep (stateInv_setPc h _)
  · rw [← execState_of_exec hexec]
    exact stateInv_finishStep (stateInv_execState h i)

/-- Settles O17: `stateInv_of_step`, from the invariant of each update. -/
theorem stepKeepsInvariant : Obligations.StepKeepsInvariant := by
  unfold Obligations.StepKeepsInvariant
  exact fun _ _ => stateInv_of_step

/-! ### Reset and the host -/

/-- What both the reset state and the reset operation give, whatever the parts the invariant does not name. -/
theorem stateInv_resetCore (s : State) : StateInv s.resetCore := by
  refine ⟨?pc, ?I, ?stack, ?halt, ?mem⟩
  case pc => exact show (0x200 : Word).toNat ≤ 0xFFF by decide
  case I => exact Nat.zero_le _
  case stack => exact fun k => by simp [State.resetCore, State.reset]
  case halt => exact fun f hf => absurd hf (Option.not_mem_none f)
  case mem => exact Memory.wf_nil _

/-- Settles O18: the reset operation leaves the reset state as it is. -/
theorem resetMeetsInvariant : Obligations.ResetMeetsInvariant := by
  unfold Obligations.ResetMeetsInvariant
  exact stateInv_resetCore State.reset

theorem stateInv_hostStep {s : State} (h : StateInv s) : StateInv (hostStep s).2 := by
  unfold hostStep
  cases hstep : step s with
  | next t => exact stateInv_of_step h hstep
  | fault | refused => exact h

theorem perform_tick (s : State) : perform .tick s = if s.hasTick then (.done, s.tick) else (.absent, s) := rfl

theorem stateInv_tick {s : State} (h : StateInv s) : StateInv s.tick := by
  unfold State.tick
  split
  · exact h
  · exact h

theorem stateInv_loadProgram {s : State} (h : StateInv s) (bytes : List Byte) : StateInv (s.loadProgram bytes).2 := by
  unfold State.loadProgram
  split
  · exact stateInv_storeBytes h _ _
  · exact h

theorem stateInv_perform {s : State} (h : StateInv s) (op : HostOp) : StateInv (perform op s).2 := by
  cases op with
  | step => exact stateInv_hostStep h
  | tick =>
    rw [perform_tick]
    split
    · exact stateInv_tick h
    · exact h
  | reset => exact stateInv_resetCore s
  | loadProgram bytes => exact stateInv_loadProgram h bytes
  | setInput | pixelGrid | needsRedraw | clearRedrawFlag => exact h

/-- Settles O19: by induction over the operations, each by `stateInv_perform`. -/
theorem hostSessionsKeepInvariant : Obligations.HostSessionsKeepInvariant := by
  unfold Obligations.HostSessionsKeepInvariant
  intro ops
  induction ops with
  | nil => exact fun _ h => h
  | cons op rest ih => exact fun s h => ih _ (stateInv_perform h op)

end Sys2Proof.Machine
end

section
/-! What a program cannot observe (10_state.md R23, R24, R26): a relation of states that agree in all a step reads, and
that every update of a step keeps, holds again after the step; the stack slots at and above SP, the sound timer and
`redraw` may differ in such a relation. -/

namespace Sys2Proof.Machine

open Sys2Proof.Safety

/-! ### Relations that a step keeps -/

/-- Related states agree in what a step tests, fetches and reports, and every update of a step leaves related states. -/
structure StepSimulation (R : State → State → Prop) : Prop where
  halt : ∀ {s s'}, R s s' → s'.halt = s.halt
  pc : ∀ {s s'}, R s s' → s'.pc = s.pc
  fetchWord : ∀ {s s'}, R s s' → s'.fetchWord = s.fetchWord
  lowestPressed : ∀ {s s'}, R s s' → s'.lowestPressed = s.lowestPressed
  execState : ∀ {s s'} (i : Instr), R s s' → R (execState i s) (execState i s')
  malformedStep : ∀ {s s'}, R s s' → R s.malformedStep s'.malformedStep
  finishStep : ∀ {s s'}, R s s' → R s.finishStep s'.finishStep

theorem waitsForKey_congr (i : Instr) {s s' : State} (h : s'.lowestPressed = s.lowestPressed) :
    waitsForKey i s' = waitsForKey i s := by
  unfold waitsForKey
  rw [h]

theorem StepSimulation.stepReport_eq {R : State → State → Prop} (hR : StepSimulation R) {s s' : State} (h : R s s') :
    stepReport s' = stepReport s := by
  have hexec (i : Instr) : (resultState s' (exec i s')).halt = (resultState s (exec i s)).halt :=
    hR.halt (hR.execState i h)
  unfold stepReport
  simp only [hR.halt h, hR.pc h, hR.fetchWord h, hexec, waitsForKey_congr _ (hR.lowestPressed h)]

theorem StepSimulation.step {R : State → State → Prop} (hR : StepSimulation R) {s s' t : State} (h : R s s')
    (hstep : step s = .next t) : ∃ t', step s' = .next t' ∧ R t t' := by
  obtain ⟨hhalt, ⟨e, hdec, rfl⟩ | ⟨i, u, hdec, hexec, rfl⟩⟩ := step_cases s t hstep
  all_goals rw [← hR.halt h] at hhalt; rw [← hR.fetchWord h] at hdec
  · exact ⟨_, step_of_decodeWord_error hhalt hdec, hR.malformedStep h⟩
  · rw [← execState_of_exec hexec]
    exact ⟨_, step_of_decodeWord_ok hhalt hdec, hR.finishStep (hR.execState i h)⟩

/-! ### The parts that few instructions touch -/

/-- `s` with another stack, sound timer and redraw flag. -/
def State.overlay (s : State) (stack : Vector Word 16) (st : Byte) (redraw : Bool) : State :=
  { s with stack := stack, ST := st, redraw := redraw }

/-- The instruction writes no overlaid part, nor SP, which says which stack slots are in use. -/
def AvoidsOverlay (i : Instr) : Prop :=
  .stack ∉ writes i ∧ .SP ∉ writes i ∧ .ST ∉ writes i ∧ .redraw ∉ writes i

section
variable (s : State) (k : Vector Word 16) (st : Byte) (b : Bool)

theorem State.storeBytes_overlay (a : Nat) (l : List Byte) :
    (s.overlay k st b).storeBytes a l = (s.storeBytes a l).overlay k st b := by
  induction l generalizing s a with
  | nil => rfl
  | cons v rest ih => exact ih (s.writeByte a v) (a + 1)

theorem State.loadRegs_overlay (base n : Nat) :
    (s.overlay k st b).loadRegs base n = (s.loadRegs base n).overlay k st b := by
  induction n with
  | zero => rfl
  | succ n ih =>
    rw [State.loadRegs, ih]
    rfl

theorem State.setFlagAndResult_overlay (x : Nibble) (flag : Bool) (v : Byte) :
    (s.overlay k st b).setFlagAndResult x flag v = (s.setFlagAndResult x flag v).overlay k st b := by
  have hparams : (s.overlay k st b).params = s.params := rfl
  unfold State.setFlagAndResult
  rw [hparams]
  split <;> rfl

/-- Such an instruction works alike under an overlay, and keeps it. -/
theorem execState_overlay (i : Instr) (havoids : AvoidsOverlay i) :
    execState i (s.overlay k st b) = (execState i s).overlay k st b := by
  obtain ⟨-, hSP, hST, hredraw⟩ := havoids
  cases i with
  | ret | call => exact absurd (by simp [writes]) hSP
  | ldSTVx => exact absurd (by simp [writes]) hST
  | cls | drw => exact absurd (by simp [writes]) hredraw
  | jp | jpV0 | seByte | sneByte | seReg | sneReg => rfl
  | ldByte | addByte | ldReg | orReg | andReg | xorReg | ldVxDT | rnd => rfl
  | ldDTVx | ldI | ldFVx | addIVx => rfl
  | addReg | subReg | shr | subn | shl => exact congrArg (·.advance 2) (s.setFlagAndResult_overlay k st b _ _ _)
  | ldBVx | ldMemVx => exact congrArg (·.advance 2) (s.storeBytes_overlay k st b _ _)
  | ldVxMem => exact congrArg (·.advance 2) (s.loadRegs_overlay k st b _ _)
  | skp x =>
    have hindex : keyIndex (s.overlay k st b).params.keyIndexPolicy ((s.overlay k st b).getV x) =
      keyIndex s.params.keyIndexPolicy (s.getV x) := rfl
    simp only [execState, exec, execSkp, hindex]
    split <;> rfl
  | sknp x =>
    have hindex : keyIndex (s.overlay k st b).params.keyIndexPolicy ((s.overlay k st b).getV x) =
      keyIndex s.params.keyIndexPolicy (s.getV x) := rfl
    simp only [execState, exec, execSknp, hindex]
    split <;> rfl
  | ldVxK x =>
    have hlowest : (s.overlay k st b).lowestPressed = s.lowestPressed := rfl
    simp only [execState, exec, execLdVxK, hlowest]
    split <;> rfl

/-- The end of a step works alike under an overlay; of the overlaid parts it changes ST only. -/
theorem State.finishStep_overlay :
    (s.overlay k st b).finishStep = s.finishStep.overlay k { s with ST := st }.finishStep.ST b := by
  have hhalt : (s.overlay k st b).halt = s.halt := rfl
  have hparams : (s.overlay k st b).params = s.params := rfl
  simp only [State.finishStep, hhalt, hparams]
  repeat' split
  all_goals rfl

end

/-! ### The sound timer and `redraw` -/

/-- The two states agree in everything but ST and redraw. -/
def SameButUnread (s s' : State) : Prop := ∃ st b, s' = s.overlay s.stack st b

theorem execState_sameButUnread_of_avoids (i : Instr) (havoids : AvoidsOverlay i) (s : State) (st : Byte) (b : Bool) :
    SameButUnread (execState i s) (execState i (s.overlay s.stack st b)) := by
  have hexec := execState_overlay s s.stack st b i havoids
  obtain ⟨hstack, -⟩ := havoids
  have hkept : (execState i s).stack = s.stack := execState_keepsAllBut i s .stack hstack
  exact ⟨st, b, by rw [hexec, hkept]⟩

/-- CLS, DRW and LD ST write ST or redraw and read neither, CALL and RET work on the stack, which is the same; every
other instruction keeps the overlay. -/
theorem execState_sameButUnread {s s' : State} (i : Instr) (h : SameButUnread s s') :
    SameButUnread (execState i s) (execState i s') := by
  obtain ⟨st, b, rfl⟩ := h
  cases i with
  | cls | drw | ldSTVx => exact ⟨_, _, rfl⟩
  | ret =>
    by_cases hsp : s.SP.val = 0
    · rw [execState_of_exec (exec_ret_of_empty hsp), execState_of_exec (exec_ret_of_empty (s := s.overlay _ st b) hsp)]
      exact ⟨st, b, rfl⟩
    · have hpos := Nat.pos_of_ne_zero hsp
      rw [execState_of_exec (exec_ret_of_pos hpos), execState_of_exec (exec_ret_of_pos (s := s.overlay _ st b) hpos)]
      exact ⟨st, b, rfl⟩
  | call nnn =>
    by_cases hsp : s.SP.val < 16
    · rw [execState_of_exec (exec_call_of_lt hsp), execState_of_exec (exec_call_of_lt (s := s.overlay _ st b) hsp)]
      exact ⟨st, b, rfl⟩
    · have hfull : s.SP.val = 16 := by omega
      rw [execState_of_exec (exec_call_of_full hfull),
        execState_of_exec (exec_call_of_full (s := s.overlay _ st b) hfull)]
      exact ⟨st, b, rfl⟩
  | _ => exact execState_sameButUnread_of_avoids _ (by simp [AvoidsOverlay, writes]) s st b

theorem finishStep_sameButUnread {s s' : State} (h : SameButUnread s s') :
    SameButUnread s.finishStep s'.finishStep := by
  obtain ⟨st, b, rfl⟩ := h
  rw [State.finishStep_overlay, ← s.finishStep_stack]
  exact ⟨_, _, rfl⟩

theorem stepSimulation_sameButUnread : StepSimulation SameButUnread where
  halt := by rintro s _ ⟨st, b, rfl⟩; rfl
  pc := by rintro s _ ⟨st, b, rfl⟩; rfl
  fetchWord := by rintro s _ ⟨st, b, rfl⟩; rfl
  lowestPressed := by rintro s _ ⟨st, b, rfl⟩; rfl
  execState := execState_sameButUnread
  finishStep := finishStep_sameButUnread
  malformedStep := by
    rintro s _ ⟨st, b, rfl⟩
    exact finishStep_sameButUnread ⟨st, b, rfl⟩

/-- Settles O60: the states agree but for ST and redraw, which a step keeps so. -/
theorem soundTimerAndRedrawAreUnread : Obligations.SoundTimerAndRedrawAreUnread := by
  unfold Obligations.SoundTimerAndRedrawAreUnread
  intro s t st b hstep
  have h : SameButUnread s { s with ST := st, redraw := b } := ⟨st, b, rfl⟩
  refine ⟨stepSimulation_sameButUnread.stepReport_eq h, ?next⟩
  case next =>
    obtain ⟨t', hstep', st', b', rfl⟩ := stepSimulation_sameButUnread.step h hstep
    exact ⟨_, hstep', rfl⟩

/-! ### The stack slots at and above SP -/

theorem sameBelowSP_iff (s s' : State) : SameBelowSP s s' ↔ ∃ k : Vector Word 16,
    s' = s.overlay k s.ST s.redraw ∧ ∀ j : Nat, (h : j < 16) → j < s.SP.val → k[j] = s.stack[j] := by
  constructor
  · rintro ⟨hs', hslots⟩
    exact ⟨s'.stack, hs', hslots⟩
  · rintro ⟨k, rfl, hslots⟩
    exact ⟨rfl, hslots⟩

/-- An update that keeps the stack and SP and works alike under an overlay keeps the agreement below SP. -/
theorem sameBelowSP_of_kept {s t t' : State} {k : Vector Word 16} (hstack : t.stack = s.stack) (hSP : t.SP = s.SP)
    (hslots : ∀ j : Nat, (h : j < 16) → j < s.SP.val → k[j] = s.stack[j]) (ht' : t' = t.overlay k t.ST t.redraw) :
    SameBelowSP t t' := by
  rw [sameBelowSP_iff, hstack, hSP]
  exact ⟨k, ht', hslots⟩

theorem execState_sameBelowSP_of_avoids (i : Instr) (havoids : AvoidsOverlay i) {s : State} {k : Vector Word 16}
    (hslots : ∀ j : Nat, (h : j < 16) → j < s.SP.val → k[j] = s.stack[j]) :
    SameBelowSP (execState i s) (execState i (s.overlay k s.ST s.redraw)) := by
  have hkeeps := execState_keepsAllBut i s
  have hexec := execState_overlay s k s.ST s.redraw i havoids
  obtain ⟨hstack, hSP, hST, hredraw⟩ := havoids
  refine sameBelowSP_of_kept (hkeeps .stack hstack) (hkeeps .SP hSP) hslots ?_
  rw [hexec, show (execState i s).ST = s.ST from hkeeps .ST hST,
    show (execState i s).redraw = s.redraw from hkeeps .redraw hredraw]

/-- RET reads the slot below SP and lowers SP; CALL fills the slot at SP and raises SP above it; every other instruction
keeps the stack and SP. -/
theorem execState_sameBelowSP {s s' : State} (i : Instr) (h : SameBelowSP s s') :
    SameBelowSP (execState i s) (execState i s') := by
  obtain ⟨k, rfl, hslots⟩ := (sameBelowSP_iff s s').mp h
  cases i with
  | cls | drw | ldSTVx => exact ⟨rfl, hslots⟩
  | ret =>
    by_cases hsp : s.SP.val = 0
    · rw [execState_of_exec (exec_ret_of_empty hsp), execState_of_exec (exec_ret_of_empty (s := s.overlay k _ _) hsp)]
      exact ⟨rfl, hslots⟩
    · have hpos := Nat.pos_of_ne_zero hsp
      have hpopped := hslots (s.SP.val - 1) (by omega) (by omega)
      rw [execState_of_exec (exec_ret_of_pos hpos), execState_of_exec (exec_ret_of_pos (s := s.overlay k _ _) hpos)]
      refine ⟨?_, fun j hj hlt => hslots j hj (Nat.lt_of_lt_of_le hlt (Nat.sub_le _ 1))⟩
      simp only [State.overlay, hpopped]
      rfl
  | call nnn =>
    by_cases hsp : s.SP.val < 16
    · rw [execState_of_exec (exec_call_of_lt hsp), execState_of_exec (exec_call_of_lt (s := s.overlay k _ _) hsp)]
      refine ⟨rfl, fun j hj hlt => ?_⟩
      change (k.set s.SP.val s.pc hsp)[j] = (s.stack.set s.SP.val s.pc hsp)[j]
      simp only [Vector.getElem_set]
      split
      · rfl
      · next hne => exact hslots j hj (by change j < s.SP.val + 1 at hlt; omega)
    · have hfull : s.SP.val = 16 := by omega
      rw [execState_of_exec (exec_call_of_full hfull),
        execState_of_exec (exec_call_of_full (s := s.overlay k _ _) hfull)]
      exact ⟨rfl, hslots⟩
  | _ => exact execState_sameBelowSP_of_avoids _ (by simp [AvoidsOverlay, writes]) hslots

theorem finishStep_sameBelowSP {s s' : State} (h : SameBelowSP s s') : SameBelowSP s.finishStep s'.finishStep := by
  obtain ⟨k, rfl, hslots⟩ := (sameBelowSP_iff s s').mp h
  refine sameBelowSP_of_kept s.finishStep_stack s.finishStep_SP hslots ?_
  rw [State.finishStep_overlay, s.finishStep_redraw]

theorem stepSimulation_sameBelowSP : StepSimulation SameBelowSP where
  halt h := by obtain ⟨h, -⟩ := h; rw [h]
  pc h := by obtain ⟨h, -⟩ := h; rw [h]
  fetchWord h := by obtain ⟨h, -⟩ := h; rw [h]; rfl
  lowestPressed h := by obtain ⟨h, -⟩ := h; rw [h]; rfl
  execState := execState_sameBelowSP
  finishStep := finishStep_sameBelowSP
  malformedStep h := by
    obtain ⟨k, rfl, hslots⟩ := (sameBelowSP_iff _ _).mp h
    exact finishStep_sameBelowSP ⟨rfl, hslots⟩

/-- Settles O59: agreement below SP is a relation that a step keeps. -/
theorem stackAboveSpIsUnobservable : Obligations.StackAboveSpIsUnobservable := by
  unfold Obligations.StackAboveSpIsUnobservable
  exact fun _ _ h => ⟨stepSimulation_sameBelowSP.stepReport_eq h, fun _ => stepSimulation_sameBelowSP.step h⟩

end Sys2Proof.Machine
end

section
/-! The end of a step, fatal faults, and what a step reports (40_cycle.md R71, R76 to R80, 60_exceptions.md R132
to R140). -/

namespace Sys2Proof.Machine

open Sys2Proof.Safety

/-! ### The end of a step -/

theorem State.finishStep_of_halt {s : State} (hhalt : s.halt ≠ none) : s.finishStep = s := by
  obtain ⟨-, h⟩ | ⟨hrun, -⟩ | ⟨hrun, -⟩ := s.finishStep_cases
  · exact h
  · exact absurd hrun hhalt
  · exact absurd hrun hhalt

theorem State.finishStep_of_perStep {s : State} (hrun : s.halt = none) (hc : s.params.timerCoupling = .perStep) :
    s.finishStep = s.decrementTimers := by
  obtain ⟨hhalt, -⟩ | ⟨-, -, h⟩ | ⟨-, hc', -⟩ := s.finishStep_cases
  · exact absurd hrun hhalt
  · exact h
  · rw [hc] at hc'
    cases hc'

theorem State.finishStep_of_externalTick {s : State} (hc : s.params.timerCoupling = .externalTick) :
    s.finishStep = s := by
  obtain ⟨-, h⟩ | ⟨-, hc', -⟩ | ⟨-, -, h⟩ := s.finishStep_cases
  · exact h
  · rw [hc] at hc'
    cases hc'
  · exact h

theorem State.decrementTimers_spec (s : State) :
    s.decrementTimers.DT.toNat = s.DT.toNat - 1 ∧ s.decrementTimers.ST.toNat = s.ST.toNat - 1 :=
  ⟨countDown_toNat s.DT, countDown_toNat s.ST⟩

theorem State.finishStep_timers_of_perStep {s : State} (hrun : s.halt = none)
    (hc : s.params.timerCoupling = .perStep) :
    s.finishStep.DT.toNat = s.DT.toNat - 1 ∧ s.finishStep.ST.toNat = s.ST.toNat - 1 := by
  rw [State.finishStep_of_perStep hrun hc]
  exact s.decrementTimers_spec

theorem State.finishStep_timers_of_kept {s : State}
    (h : s.halt ≠ none ∨ s.params.timerCoupling = .externalTick) : s.finishStep.DT = s.DT ∧ s.finishStep.ST = s.ST := by
  have hkept : s.finishStep = s := h.elim State.finishStep_of_halt State.finishStep_of_externalTick
  rw [hkept]
  exact ⟨rfl, rfl⟩

/-- No instruction writes the parameters (log 2). -/
theorem execState_params (i : Instr) (s : State) : (execState i s).params = s.params :=
  execState_keepsAllBut i s .params (by cases i <;> simp [writes])

/-- Settles O9: the step ends in `finishStep` of the executed state, whose parameters are those before the step. -/
theorem endOfStepCountsDown : Obligations.EndOfStepCountsDown := by
  unfold Obligations.EndOfStepCountsDown
  intro s t u i hrun hdec hexec hstep
  have hparams : t.params = s.params := by rw [← execState_of_exec hexec, execState_params]
  rw [step_of_decodeWord_ok hrun hdec, execState_of_exec hexec] at hstep
  cases hstep
  rw [← hparams]
  exact ⟨finishStep_keeps t, State.finishStep_timers_of_perStep, State.finishStep_timers_of_kept⟩

theorem stepReport_of_error {s : State} {e : Reject} (hrun : s.halt = none) (hdec : decodeWord s.fetchWord = .error e) :
    stepReport s = .malformedOpcode s.pc s.fetchWord := by
  simp only [stepReport, hrun, hdec]

/-- Settles O10: `malformedStep` is the advance of pc and the end of the step. -/
theorem malformedWordAdvances : Obligations.MalformedWordAdvances := by
  unfold Obligations.MalformedWordAdvances
  intro s e hrun hdec
  refine ⟨s.malformedStep, step_of_decodeWord_error hrun hdec, ?pc, ?frame, ?perStep, ?kept, ?report⟩
  case pc => simp [PcPlus, State.malformedStep]
  case frame => exact ((keepsAllBut_setPc s _).trans (finishStep_keeps _)).mono (by simp)
  case perStep => exact State.finishStep_timers_of_perStep (s := s.advance 2) hrun
  case kept => exact fun hc => State.finishStep_timers_of_kept (s := s.advance 2) (.inr hc)
  case report => exact stepReport_of_error hrun hdec

/-! ### Fatal faults -/

theorem execState_halt_of_notMem {i : Instr} (hi : .halt ∉ writes i) (s : State) : (execState i s).halt = s.halt :=
  execState_keepsAllBut i s .halt hi

/-- A fatal fault is raised only by `raiseFatal`, with the word of the instruction, in the four meanings that test for
one (R139). -/
theorem execState_fault_cases {i : Instr} {s : State} (hrun : s.halt = none) (hfault : (execState i s).halt ≠ none) :
    (∃ nnn, i = .call nnn ∧ s.SP.val = 16 ∧ execState i s = s.raiseFatal .stackOverflow (encode i)) ∨
    (i = .ret ∧ s.SP.val = 0 ∧ execState i s = s.raiseFatal .stackUnderflow (encode i)) ∨
    (∃ x, (i = .skp x ∨ i = .sknp x) ∧ 16 ≤ (s.getV x).toNat ∧ s.params.keyIndexPolicy = .fault ∧
      execState i s = s.raiseFatal .keyIndexOutOfRange (encode i)) := by
  cases i with
  | call nnn =>
    obtain ⟨hsp, h⟩ | ⟨_, h⟩ := execCall_cases nnn s
    · exact .inl ⟨nnn, rfl, hsp, execState_of_exec h⟩
    · rw [execState_of_exec h] at hfault
      exact absurd hrun hfault
  | ret =>
    obtain ⟨hsp, h⟩ | ⟨_, h⟩ := execRet_cases s
    · exact .inr (.inl ⟨rfl, hsp, execState_of_exec h⟩)
    · rw [execState_of_exec h] at hfault
      exact absurd hrun hfault
  | skp x =>
    obtain ⟨h, -⟩ | ⟨h, hvalue, hpolicy⟩ := execSkp_cases x s
    · rw [execState_of_exec h] at hfault
      exact absurd hrun hfault
    · exact .inr (.inr ⟨x, .inl rfl, hvalue, hpolicy, execState_of_exec h⟩)
  | sknp x =>
    obtain ⟨h, -⟩ | ⟨h, hvalue, hpolicy⟩ := execSknp_cases x s
    · rw [execState_of_exec h] at hfault
      exact absurd hrun hfault
    · exact .inr (.inr ⟨x, .inr rfl, hvalue, hpolicy, execState_of_exec h⟩)
  | _ => exact absurd ((execState_halt_of_notMem (by simp [writes]) s).trans hrun) hfault

/-- A fatal fault is recorded with pc and the word of the instruction, and is all that is written (R79, R138). -/
theorem execState_eq_of_fault {i : Instr} {s : State} {f : Fault} (hrun : s.halt = none)
    (hf : (execState i s).halt = some f) :
    execState i s = { s with halt := some f } ∧ f.pc = s.pc ∧ f.word = encode i := by
  have hfault : (execState i s).halt ≠ none := by simp [hf]
  obtain ⟨_, -, -, h⟩ | ⟨-, -, h⟩ | ⟨_, -, -, -, h⟩ := execState_fault_cases hrun hfault
  all_goals
    rw [h, State.raiseFatal_halt, Option.some_inj] at hf
    subst hf
    exact ⟨h, rfl, rfl⟩

/-- Settles O14: `execState_fault_cases`, with the record that `raiseFatal` writes. -/
theorem onlyFourInstructionsFault : Obligations.OnlyFourInstructionsFault := by
  unfold Obligations.OnlyFourInstructionsFault
  intro i s t f hrun hexec hf
  rw [← execState_of_exec hexec] at hf
  have hfault : (execState i s).halt ≠ none := by simp [hf]
  obtain ⟨nnn, hi, hsp, h⟩ | ⟨hi, hsp, h⟩ | ⟨x, hi, hvalue, hpolicy, h⟩ := execState_fault_cases hrun hfault
  all_goals rw [h, State.raiseFatal_halt, Option.some_inj] at hf
  · exact .inl ⟨nnn, hi, hsp, hf.symm⟩
  · exact .inr (.inl ⟨hi, hsp, hf.symm⟩)
  · exact .inr (.inr ⟨x, hi, hvalue, hpolicy, hf.symm⟩)

/-- Settles O13: `execState_eq_of_fault`; a halted state ends the step as it is, and the decoded word is the word of
the instruction. -/
theorem fatalStepWritesOnlyHalt : Obligations.FatalStepWritesOnlyHalt := by
  unfold Obligations.FatalStepWritesOnlyHalt
  intro s t f hrun hstep hf
  obtain ⟨-, ⟨_, -, rfl⟩ | ⟨i, u, hdec, hexec, rfl⟩⟩ := step_cases s t hstep
  · rw [State.malformedStep, State.finishStep_halt, State.advance_halt, hrun] at hf
    cases hf
  · rw [State.finishStep_halt] at hf
    rw [State.finishStep_of_halt (by simp [hf])]
    rw [← execState_of_exec hexec] at hf ⊢
    rw [← (decodeWord_eq_ok_iff _ i).mp hdec]
    exact execState_eq_of_fault hrun hf

/-! ### A halted core -/

theorem stepReport_of_halt {s : State} {f : Fault} (hhalt : s.halt = some f) : stepReport s = .fatal f := by
  simp only [stepReport, hhalt]

theorem hostStep_of_halt {s : State} {f : Fault} (hhalt : s.halt = some f) : hostStep s = (.fatal f, s) := by
  rw [hostStep, stepReport_of_halt hhalt, step_of_halt hhalt, resultState]

theorem State.tick_of_halt {s : State} {f : Fault} (hhalt : s.halt = some f) : s.tick = s := by
  simp only [State.tick, hhalt]

theorem State.tick_of_running {s : State} (hrun : s.halt = none) : s.tick = s.decrementTimers := by
  simp only [State.tick, hrun]

/-- Settles O11: the halt record is tested before anything else. -/
theorem haltedCoreReportsItsFault : Obligations.HaltedCoreReportsItsFault := by
  unfold Obligations.HaltedCoreReportsItsFault
  exact fun s f hhalt => ⟨step_of_halt hhalt, hostStep_of_halt hhalt⟩

theorem perform_halt_of_ne_reset {s : State} {f : Fault} (hhalt : s.halt = some f) {op : HostOp} (hop : op ≠ .reset) :
    (perform op s).2.halt = some f := by
  cases op with
  | reset => exact absurd rfl hop
  | step => rw [perform, hostStep_of_halt hhalt, hhalt]
  | tick =>
    rw [perform_tick, State.tick_of_halt hhalt]
    split <;> exact hhalt
  | loadProgram bytes =>
    rw [perform, State.loadProgram]
    split
    · exact (s.storeBytes_halt _ _).trans hhalt
    · exact hhalt
  | setInput | pixelGrid | needsRedraw | clearRedrawFlag => exact hhalt

/-- Settles O12: `perform_halt_of_ne_reset`; the reset state has no halt record. -/
theorem onlyResetClearsHalt : Obligations.OnlyResetClearsHalt := by
  unfold Obligations.OnlyResetClearsHalt
  intro s f op hhalt
  refine ⟨perform_halt_of_ne_reset hhalt, ?reset⟩
  case reset =>
    rintro rfl
    rfl

/-- Settles O58: `tick` exists by the coupling, and the halt record decides whether it counts down. -/
theorem tickDecrementsTimers : Obligations.TickDecrementsTimers := by
  unfold Obligations.TickDecrementsTimers
  intro s
  have htick (hc : s.params.timerCoupling = .externalTick) : perform .tick s = (.done, s.tick) := by
    simp [perform_tick, State.hasTick, hc]
  refine ⟨fun hc hrun => ?running, fun hc hhalt => ?halted, fun hc => ?absent⟩
  case running =>
    obtain ⟨hDT, hST⟩ := s.decrementTimers_spec
    exact ⟨_, by rw [htick hc, State.tick_of_running hrun], hDT, hST, keepsAllBut_decrementTimers s⟩
  case halted =>
    obtain ⟨f, hf⟩ := Option.ne_none_iff_exists'.mp hhalt
    rw [htick hc, State.tick_of_halt hf]
  case absent => simp [perform_tick, State.hasTick, hc]

/-! ### What a step reports -/

theorem waitsForKey_iff (i : Instr) (s : State) :
    waitsForKey i s = true ↔ (∃ x, i = .ldVxK x) ∧ ∀ k, s.getKey k = false := by
  have hnone : s.lowestPressed.isNone = true ↔ ∀ k, s.getKey k = false := by
    obtain ⟨h, hkeys⟩ | ⟨k, h, hkey, -⟩ := s.lowestPressed_cases
    · simp [h, hkeys]
    · simp only [h, Option.isNone_some, Bool.false_eq_true, false_iff]
      exact fun hkeys => Bool.false_ne_true ((hkeys k).symm.trans hkey)
  cases i with
  | ldVxK x => simp [waitsForKey, hnone]
  | _ => simp [waitsForKey]

theorem stepReport_of_fault {s : State} {i : Instr} {f : Fault} (hrun : s.halt = none)
    (hdec : decodeWord s.fetchWord = .ok i) (hf : (execState i s).halt = some f) : stepReport s = .fatal f := by
  rw [execState] at hf
  simp only [stepReport, hrun, hdec, hf]

theorem stepReport_of_completed {s : State} {i : Instr} (hrun : s.halt = none) (hdec : decodeWord s.fetchWord = .ok i)
    (hnone : (execState i s).halt = none) : stepReport s = if waitsForKey i s then .wait else .ok := by
  rw [execState] at hnone
  simp only [stepReport, hrun, hdec, hnone]

theorem hostStep_of_step {s t : State} (hstep : step s = .next t) : hostStep s = (stepReport s, t) := by
  rw [hostStep, hstep, resultState]

theorem waitsForKey_not_fault {i : Instr} {s : State} (hrun : s.halt = none) (hwait : waitsForKey i s = true) :
    (execState i s).halt = none := by
  obtain ⟨⟨x, rfl⟩, -⟩ := (waitsForKey_iff i s).mp hwait
  exact (execState_halt_of_notMem (by simp [writes]) s).trans hrun

/-- Fatal is what the halt record holds after the step (R77). -/
theorem stepReport_eq_fatal_iff (s : State) (f : Fault) : stepReport s = .fatal f ↔ (hostStep s).2.halt = some f := by
  cases hhalt : s.halt with
  | some g => simp [hostStep_of_halt hhalt, stepReport_of_halt hhalt, hhalt]
  | none =>
    cases hdec : decodeWord s.fetchWord with
    | error e =>
      simp [hostStep_of_step (step_of_decodeWord_error hhalt hdec), stepReport_of_error hhalt hdec,
        State.malformedStep, hhalt]
    | ok i =>
      simp only [hostStep_of_step (step_of_decodeWord_ok hhalt hdec), State.finishStep_halt]
      cases hexec : (execState i s).halt with
      | some g => simp [stepReport_of_fault hhalt hdec hexec]
      | none =>
        rw [stepReport_of_completed hhalt hdec hexec]
        split <;> simp

theorem stepReport_eq_malformedOpcode_iff (s : State) (p w : Word) : stepReport s = .malformedOpcode p w ↔
    s.halt = none ∧ (∃ e, decodeWord s.fetchWord = .error e) ∧ p = s.pc ∧ w = s.fetchWord := by
  cases hhalt : s.halt with
  | some g => simp [stepReport_of_halt hhalt]
  | none =>
    cases hdec : decodeWord s.fetchWord with
    | error e => simp [stepReport_of_error hhalt hdec, eq_comm]
    | ok i =>
      cases hexec : (execState i s).halt with
      | some g => simp [stepReport_of_fault hhalt hdec hexec]
      | none =>
        rw [stepReport_of_completed hhalt hdec hexec]
        split <;> simp

theorem stepReport_eq_wait_iff (s : State) : stepReport s = .wait ↔
    s.halt = none ∧ (∃ x, decodeWord s.fetchWord = .ok (.ldVxK x)) ∧ ∀ k, s.getKey k = false := by
  cases hhalt : s.halt with
  | some g => simp [stepReport_of_halt hhalt]
  | none =>
    cases hdec : decodeWord s.fetchWord with
    | error e => simp [stepReport_of_error hhalt hdec]
    | ok i =>
      simp only [Except.ok.injEq, true_and]
      rw [← waitsForKey_iff]
      cases hexec : (execState i s).halt with
      | some g =>
        have hwait : ¬ waitsForKey i s = true := fun h => by
          rw [waitsForKey_not_fault hhalt h] at hexec
          cases hexec
        simp [stepReport_of_fault hhalt hdec hexec, hwait]
      | none => simp [stepReport_of_completed hhalt hdec hexec]

/-- A waiting step executes nothing, and so only ends. -/
theorem keepsAllBut_of_wait {s : State} (hwait : stepReport s = .wait) : KeepsAllBut [.DT, .ST] s (hostStep s).2 := by
  obtain ⟨hrun, ⟨x, hdec⟩, hkeys⟩ := (stepReport_eq_wait_iff s).mp hwait
  rw [hostStep_of_step (step_of_decodeWord_ok hrun hdec)]
  obtain ⟨h, -⟩ | ⟨k, -, hkey, -⟩ := execLdVxK_cases x s
  · rw [execState_of_exec h]
    exact finishStep_keeps s
  · exact absurd ((hkeys k).symm.trans hkey) Bool.false_ne_true

/-- Settles O16: a lemma for each outcome above; what the host's step answers is its definition, as are the codes. -/
theorem stepReportsItsOutcome : Obligations.StepReportsItsOutcome := by
  unfold Obligations.StepReportsItsOutcome
  refine ⟨fun s => ⟨?fatal, fun f => (stepReport_eq_fatal_iff s f).mp, stepReport_eq_malformedOpcode_iff s,
    stepReport_eq_wait_iff s, keepsAllBut_of_wait, fun t hstep => ?next, fun f hhalt => ?halted⟩, ?codes⟩
  case fatal => simp only [stepReport_eq_fatal_iff, Option.ne_none_iff_exists']
  case next =>
    refine ⟨hostStep_of_step hstep, ?_⟩
    rw [perform, hostStep_of_step hstep]
  case halted => rw [perform, hostStep_of_halt hhalt]
  case codes => exact ⟨rfl, rfl, fun _ _ => rfl, fun _ _ => rfl, fun _ _ => rfl, fun _ _ => rfl, rfl, fun _ => rfl⟩

/-! ### Timers -/

/-- Settles O53: FX15 alone writes DT and FX18 alone writes ST, and the end of a step raises neither. -/
theorem timersOnlyRiseWhenSet : Obligations.TimersOnlyRiseWhenSet := by
  unfold Obligations.TimersOnlyRiseWhenSet
  intro s t hstep
  obtain ⟨-, ⟨_, -, rfl⟩ | ⟨i, u, hdec, hexec, rfl⟩⟩ := step_cases s t hstep
  · obtain ⟨hDT, hST⟩ := finishStep_le (s.advance 2)
    exact ⟨fun _ => hDT, fun _ => hST⟩
  · rw [← execState_of_exec hexec, hdec]
    obtain ⟨hDT, hST⟩ := finishStep_le (execState i s)
    refine ⟨fun hne => ?DT, fun hne => ?ST⟩
    case DT =>
      have hkept : (execState i s).DT = s.DT :=
        execState_keepsAllBut i s .DT (by cases i <;> simp_all [writes])
      rwa [hkept] at hDT
    case ST =>
      have hkept : (execState i s).ST = s.ST :=
        execState_keepsAllBut i s .ST (by cases i <;> simp_all [writes])
      rwa [hkept] at hST

/-! ### The reset operation -/

theorem State.readByte_resetCore (s : State) (a : Nat) (ha : a < 0x1000) :
    s.resetCore.readByte a = resetByte s.params.font a := by
  rw [State.readByte, Nat.mod_eq_of_lt ha]
  rfl

/-- Settles O20: the reset state's fields, and the reset contents of the empty memory. -/
theorem resetLeavesDefaults : Obligations.ResetLeavesDefaults := by
  unfold Obligations.ResetLeavesDefaults
  refine ⟨fun s => ⟨rfl, ?V, rfl, rfl, rfl, ?stack, rfl, rfl, ?grid, rfl, rfl, rfl, rfl, rfl, ?font, ?other⟩,
    rfl, ?keys⟩
  case V => exact fun r => by simp [State.getV, State.resetCore, State.reset]
  case stack => exact fun k h => by simp [State.resetCore, State.reset]
  case grid => exact Grid.cell_clear
  case font =>
    intro k hk
    rw [s.readByte_resetCore _ (by omega), resetByte, dif_pos (by omega)]
    simp
  case other =>
    intro a ha hout
    rw [s.readByte_resetCore a ha, resetByte, dif_neg (by omega)]
  case keys => exact fun k => by simp [State.getKey, State.reset]

end Sys2Proof.Machine
end

section
/-! Registers (10_state.md R19, R35): what the shared ends of the meanings leave in each register, and which registers
each instruction writes. -/

namespace Sys2Proof.Machine

open Sys2Proof.Safety

@[simp] theorem State.getV_writeReg (s : State) (x r : Nibble) (v : Byte) :
    (s.writeReg x v).getV r = if r = x then v else s.getV r := by
  rw [State.writeReg, State.getV_advance, State.getV_setV]

theorem State.getV_writeFlagged_of_ne (s : State) (x r : Nibble) (b : Bool) (v : Byte) (hx : r ≠ x) (hF : r ≠ 0xF) :
    (s.writeFlagged x b v).getV r = s.getV r := by
  obtain ⟨-, -, -, hother, -⟩ := writeFlagged_spec s x b v
  exact hother r hx hF

theorem execState_getV (i : Instr) (s : State) (r : Nibble) (hr : writesReg r i = false) :
    (execState i s).getV r = s.getV r := by
  cases i with
  | ldByte x | addByte x | ldReg x | orReg x | andReg x | xorReg x | ldVxDT x | rnd x =>
    have hne : r ≠ x := by simpa [writesReg] using hr
    exact (State.getV_writeReg _ x r _).trans (if_neg hne)
  | addReg x | subReg x | shr x | subn x | shl x =>
    obtain ⟨hx, hF⟩ : r ≠ x ∧ r ≠ 0xF := by simpa [writesReg] using hr
    exact s.getV_writeFlagged_of_ne x r _ _ hx hF
  | drw =>
    have hF : r ≠ 0xF := by simpa [writesReg] using hr
    exact (State.getV_setVF _ r _).trans (if_neg hF)
  | addIVx x =>
    have hF : r ≠ 0xF := by simpa [writesReg] using hr
    exact (s.getV_setVF r (indexOverflowFlag s.I (s.getV x))).trans (if_neg hF)
  | ldVxK x =>
    have hne : r ≠ x := by simpa [writesReg] using hr
    obtain ⟨h, -⟩ | ⟨k, h, -⟩ := execLdVxK_cases x s <;> rw [execState_of_exec h]
    exact (s.getV_writeReg x r _).trans (if_neg hne)
  | ldVxMem x =>
    have hgt : ¬ r.toNat < x.toNat + 1 := by simpa [writesReg, Nat.lt_succ_iff] using hr
    exact (s.getV_loadRegs s.I.toNat (x.toNat + 1) (by omega) r).trans (if_neg hgt)
  | _ => exact execState_keepsAllBut _ s .V (by simp [writes]) r

/-- Settles O22: `execState_getV`. -/
theorem instructionsWriteOnlyTheirRegisters : Obligations.InstructionsWriteOnlyTheirRegisters := by
  unfold Obligations.InstructionsWriteOnlyTheirRegisters
  intro i s t r hexec hr
  rw [← execState_of_exec hexec]
  exact execState_getV i s r hr

end Sys2Proof.Machine
end

section
/-! Control flow (42_control_flow.md): the jumps, the skips, and the call stack. -/

namespace Sys2Proof.Machine

open Sys2Proof.Safety

theorem pcPlus_advance {s t : State} (hpc : t.pc = s.pc) (k : Nat) : PcPlus k s (t.advance k) := by
  rw [PcPlus, State.advance_pc, addr12_toNat, hpc]

theorem State.setPc_addr_toNat (s : State) (nnn : Addr) : (s.setPc nnn.toNat).pc.toNat = nnn.toNat := by
  rw [State.setPc_pc, addr12_toNat, Nat.mod_eq_of_lt nnn.isLt]

/-- Settles O28: the address is below 0x1000. -/
theorem jpSetsPc : Obligations.JpSetsPc := by
  unfold Obligations.JpSetsPc
  exact fun nnn => ⟨decodeWord_encode (.jp nnn), fun s => ⟨_, rfl, s.setPc_addr_toNat nnn, keepsAllBut_setPc s _⟩⟩

/-- Settles O34: `setPc` reduces the sum. -/
theorem jpV0AddsV0 : Obligations.JpV0AddsV0 := by
  unfold Obligations.JpV0AddsV0
  exact fun nnn s => ⟨_, rfl, addr12_toNat _, keepsAllBut_setPc s _⟩

/-! ### Skips -/

/-- The two forms of a skip in the statements: the condition `c` decides between pc + 4 and pc + 2. -/
theorem skipIf_spec_iff (s : State) {c : Bool} {P : Prop} (hc : c = true ↔ P) :
    KeepsAllBut [.pc] s (s.skipIf c) ∧ (P → PcPlus 4 s (s.skipIf c)) ∧ (¬ P → PcPlus 2 s (s.skipIf c)) := by
  obtain ⟨hkeeps, h4, h2⟩ := skipIf_spec s c
  exact ⟨hkeeps, fun hP => h4 (hc.mpr hP), fun hP => h2 (Bool.eq_false_of_not_eq_true fun h => hP (hc.mp h))⟩

theorem skipIf_beq_spec (s : State) (a b : Byte) :
    KeepsAllBut [.pc] s (s.skipIf (a == b)) ∧ (a = b → PcPlus 4 s (s.skipIf (a == b))) ∧
      (a ≠ b → PcPlus 2 s (s.skipIf (a == b))) :=
  skipIf_spec_iff s beq_iff_eq

theorem skipIf_bne_spec (s : State) (a b : Byte) :
    KeepsAllBut [.pc] s (s.skipIf (a != b)) ∧ (a ≠ b → PcPlus 4 s (s.skipIf (a != b))) ∧
      (a = b → PcPlus 2 s (s.skipIf (a != b))) := by
  obtain ⟨hkeeps, h4, h2⟩ := skipIf_spec_iff s (bne_iff_ne (a := a) (b := b))
  exact ⟨hkeeps, h4, fun h => h2 (not_not.mpr h)⟩

/-- Settles O32: both are skips on a comparison of Vx with the immediate. -/
theorem skipsOnByte : Obligations.SkipsOnByte := by
  unfold Obligations.SkipsOnByte
  exact fun x nn => ⟨decodeWord_encode (.seByte x nn), decodeWord_encode (.sneByte x nn), fun s =>
    ⟨⟨_, rfl, skipIf_beq_spec s _ _⟩, ⟨_, rfl, skipIf_bne_spec s _ _⟩⟩⟩

theorem unrecognized_wordXYN {op n : Nibble} (x y : Nibble) (hop : op = 0x5 ∨ op = 0x9) (hn : n ≠ 0) :
    Unrecognized (wordXYN op x y n) := by
  refine .inr (.inl ⟨?top, ?low⟩)
  case top =>
    have h (k : Nibble) (hk : op = k) : (wordXYN op x y n).toNat / 0x1000 = k.toNat :=
      (opField_eq_iff _ k).mp ((opField_wordXYN op x y n).trans hk)
    exact hop.imp (h 0x5) (h 0x9)
  case low =>
    intro h
    exact hn ((nField_wordXYN op x y n).symm.trans ((nField_eq_iff _ 0).mpr h))

/-- Settles O33: both are skips on a comparison of Vx with Vy; a low nibble other than 0 is in the table of R63. -/
theorem skipsOnRegisters : Obligations.SkipsOnRegisters := by
  unfold Obligations.SkipsOnRegisters
  exact fun x y => ⟨decodeWord_encode (.seReg x y), decodeWord_encode (.sneReg x y), fun n hn =>
    ⟨decodeWord_of_unrecognized _ (unrecognized_wordXYN x y (.inl rfl) hn),
      decodeWord_of_unrecognized _ (unrecognized_wordXYN x y (.inr rfl) hn)⟩, fun s =>
    ⟨⟨_, rfl, skipIf_beq_spec s _ _⟩, ⟨_, rfl, skipIf_bne_spec s _ _⟩⟩⟩

theorem extractLsb'_eq_of_toNat_mod {v : Byte} {k : Nibble} (hk : k.toNat = v.toNat % 16) : v.extractLsb' 0 4 = k := by
  apply BitVec.eq_of_toNat_eq
  simp [hk]

/-- Settles O49: the inversion lemmas of SKP and SKNP; the two conditions on the key index exclude each other. -/
theorem keySkipsTestLatch : Obligations.KeySkipsTestLatch := by
  unfold Obligations.KeySkipsTestLatch
  intro x k s hk
  have hindex := extractLsb'_eq_of_toNat_mod hk
  have hexcl (hvalid : (s.getV x).toNat < 16 ∨ s.params.keyIndexPolicy = .lowNibble)
      (hinvalid : 16 ≤ (s.getV x).toNat ∧ s.params.keyIndexPolicy = .fault) : False := by
    obtain ⟨hvalue, hpolicy⟩ := hinvalid
    obtain h | h := hvalid
    · omega
    · cases hpolicy.symm.trans h
  refine ⟨fun hvalid => ⟨?skp, ?sknp⟩, fun hinvalid => ⟨?skpFault, ?sknpFault⟩⟩
  case skp =>
    obtain ⟨h, -⟩ | ⟨-, hinvalid⟩ := execSkp_cases x s
    · rw [hindex] at h
      exact ⟨_, h, skipIf_spec s _⟩
    · exact (hexcl hvalid hinvalid).elim
  case sknp =>
    obtain ⟨h, -⟩ | ⟨-, hinvalid⟩ := execSknp_cases x s
    · rw [hindex] at h
      obtain ⟨hkeeps, h4, h2⟩ := skipIf_spec s (!s.getKey k)
      exact ⟨_, h, hkeeps, fun hkey => h4 (by rw [hkey]; rfl), fun hkey => h2 (by rw [hkey]; rfl)⟩
    · exact (hexcl hvalid hinvalid).elim
  case skpFault =>
    obtain ⟨-, hvalid⟩ | ⟨h, -⟩ := execSkp_cases x s
    · exact (hexcl hvalid hinvalid).elim
    · exact h
  case sknpFault =>
    obtain ⟨-, hvalid⟩ | ⟨h, -⟩ := execSknp_cases x s
    · exact (hexcl hvalid hinvalid).elim
    · exact h

/-! ### The call stack -/

/-- Settles O29: the push fills the slot at SP and no other; a full stack raises the fault. -/
theorem callPushesOwnAddress : Obligations.CallPushesOwnAddress := by
  unfold Obligations.CallPushesOwnAddress
  intro nnn
  refine ⟨decodeWord_encode (.call nnn), fun s =>
    ⟨fun hsp => ⟨_, exec_call_of_lt hsp, ?pushed, rfl, ?kept, ?pc, ?frame⟩,
      fun hfull => exec_call_of_full hfull⟩⟩
  case pushed => exact Vector.getElem_set_self hsp
  case kept => exact fun k hk hne => Vector.getElem_set_ne hsp hk hne.symm
  case pc => exact State.setPc_addr_toNat _ nnn
  case frame => exact (keepsAllBut_stack_SP s _ _).trans (keepsAllBut_setPc _ _)

/-- Settles O30: the pop lowers SP and keeps the stack; an empty stack raises the fault. -/
theorem retPopsLatestAddress : Obligations.RetPopsLatestAddress := by
  unfold Obligations.RetPopsLatestAddress
  refine ⟨decodeWord_encode .ret, fun s => ⟨fun hsp => ⟨_, exec_ret_of_pos hsp, rfl, ?pc, ?frame⟩,
    fun hempty => exec_ret_of_empty hempty⟩⟩
  case pc => exact addr12_toNat _
  case frame => exact (keepsAllBut_SP s _).trans (keepsAllBut_setPc _ _)

/-- Settles O31: the RET pops the slot that the CALL filled with pc, and the slots below it are kept. -/
theorem callThenRetResumes : Obligations.CallThenRetResumes := by
  unfold Obligations.CallThenRetResumes
  intro nnn s t hsp hcall
  rw [exec_call_of_lt hsp] at hcall
  cases hcall
  have hpos : 0 < s.SP.val + 1 := Nat.succ_pos _
  refine ⟨_, exec_ret_of_pos hpos, ?pc, rfl, rfl, fun k hk hlt => ?slots⟩
  case pc =>
    rw [PcPlus, State.setPc_pc, addr12_toNat]
    exact congrArg (fun a : Word => (a.toNat + 2) % 0x1000) (Vector.getElem_set_self hsp)
  case slots => exact Vector.getElem_set_ne hsp hk (by change k < s.SP.val at hlt; omega)

end Sys2Proof.Machine
end

section
/-! Registers, arithmetic and timers (43_alu.md, 45_timers_input.md): each meaning ends in `writeReg` or `writeFlagged`,
whose effect is known; what is left is the value written. -/

namespace Sys2Proof.Machine

open Sys2Proof.Safety

/-- Settles O35: both loads are one register write. -/
theorem loadsWriteVx : Obligations.LoadsWriteVx := by
  unfold Obligations.LoadsWriteVx
  exact ⟨fun x nn => ⟨decodeWord_encode (.ldByte x nn), fun s => ⟨_, rfl, writeReg_spec s x nn⟩⟩,
    fun x y => ⟨decodeWord_encode (.ldReg x y), fun s => ⟨_, rfl, writeReg_spec s x _⟩⟩⟩

/-- Settles O36: a sum of bytes is taken mod 256. -/
theorem addByteWraps : Obligations.AddByteWraps := by
  unfold Obligations.AddByteWraps
  exact fun x nn => ⟨decodeWord_encode (.addByte x nn), fun s =>
    ⟨_, s.getV x + nn, rfl, BitVec.toNat_add _ _, writeReg_spec s x _⟩⟩

/-- Settles O37: a bit of the result is the operation on the operands' bits. -/
theorem logicIsBitwise : Obligations.LogicIsBitwise := by
  unfold Obligations.LogicIsBitwise
  exact fun x y s => ⟨⟨_, s.getV x ||| s.getV y, rfl, writeReg_spec s x _, fun _ _ => BitVec.getLsbD_or⟩,
    ⟨_, s.getV x &&& s.getV y, rfl, writeReg_spec s x _, fun _ _ => BitVec.getLsbD_and⟩,
    ⟨_, s.getV x ^^^ s.getV y, rfl, writeReg_spec s x _, fun _ _ => BitVec.getLsbD_xor⟩⟩

/-! ### Flags and results in numbers -/

theorem writeFlagged_spec_of_eq (s : State) (x : Nibble) {b : Bool} {v : Byte} {flag result : Nat}
    (hflag : (if b then 1 else 0) = flag) (hresult : v.toNat = result) :
    WroteFlagged x flag result s (s.writeFlagged x b v) := by
  subst hflag hresult
  exact writeFlagged_spec s x b v

theorem byte_sub_toNat (a b : Byte) : (a - b).toNat = (a.toNat + 256 - b.toNat) % 256 := by
  have := b.isLt
  rw [BitVec.toNat_sub]
  omega

theorem lowBit_eq_mod (a : Byte) : (if lowBit a then 1 else 0) = a.toNat % 2 := by
  rw [lowBit, BitVec.getLsbD, Nat.testBit_zero]
  have := Nat.mod_two_eq_zero_or_one a.toNat
  split <;> simp_all

theorem highBit_eq_div (a : Byte) : (if highBit a then 1 else 0) = a.toNat / 128 := by
  have := a.isLt
  rw [highBit, BitVec.getLsbD, Nat.testBit_eq_decide_div_mod_eq]
  split <;> simp_all <;> omega

theorem byte_shiftRight_one_toNat (a : Byte) : (a >>> 1).toNat = a.toNat / 2 := by
  rw [BitVec.toNat_ushiftRight, Nat.shiftRight_eq_div_pow, pow_one]

theorem byte_shiftLeft_one_toNat (a : Byte) : (a <<< 1).toNat = 2 * a.toNat % 256 := by
  rw [BitVec.toNat_shiftLeft, Nat.shiftLeft_eq, pow_one, Nat.mul_comm]

/-- Settles O38: the carry is the sum passing 255. -/
theorem addRegCarries : Obligations.AddRegCarries := by
  unfold Obligations.AddRegCarries
  exact fun x y => ⟨decodeWord_encode (.addReg x y), fun s =>
    ⟨_, rfl, writeFlagged_spec_of_eq s x (by simp [carryFlag]) (BitVec.toNat_add _ _)⟩⟩

/-- Settles O39: SUB and SUBN are one subtraction with the operands in either order. -/
theorem subtractsBorrow : Obligations.SubtractsBorrow := by
  unfold Obligations.SubtractsBorrow
  exact fun x y => ⟨decodeWord_encode (.subReg x y), decodeWord_encode (.subn x y), fun s =>
    ⟨⟨_, rfl, writeFlagged_spec_of_eq s x (by simp [noBorrowFlag]) (byte_sub_toNat _ _)⟩,
      ⟨_, rfl, writeFlagged_spec_of_eq s x (by simp [noBorrowFlag]) (byte_sub_toNat _ _)⟩⟩⟩

/-- Settles O40: a shift by one halves or doubles, and loses bit 0 or bit 7; the meanings do not use `y`. -/
theorem shiftsByOne : Obligations.ShiftsByOne := by
  unfold Obligations.ShiftsByOne
  exact fun x y => ⟨decodeWord_encode (.shr x y), decodeWord_encode (.shl x y), fun s =>
    ⟨⟨_, rfl, writeFlagged_spec_of_eq s x (lowBit_eq_mod _) (byte_shiftRight_one_toNat _)⟩,
      ⟨_, rfl, writeFlagged_spec_of_eq s x (highBit_eq_div _) (byte_shiftLeft_one_toNat _)⟩,
      fun _ => ⟨rfl, rfl⟩⟩⟩

/-- Settles O41: one register write after the draw is counted. -/
theorem rndMasksFreeByte : Obligations.RndMasksFreeByte := by
  unfold Obligations.RndMasksFreeByte
  intro x nn s
  obtain ⟨hx, hother, hpc, -⟩ := writeReg_spec s.drawRandom.2 x (Config.randomByte s.draws &&& nn)
  refine ⟨_, rfl, fun k _ => ?bits, hother, rfl, hpc, ?frame⟩
  case bits => exact (congrArg (·.getLsbD k) hx).trans BitVec.getLsbD_and
  case frame => exact (execState_keepsAllBut (.rnd x nn) s).mono (by simp [writes])

/-! ### Timers and the key wait -/

/-- Settles O50: one register write. -/
theorem readsDelayTimer : Obligations.ReadsDelayTimer := by
  unfold Obligations.ReadsDelayTimer
  exact fun x => ⟨decodeWord_encode (.ldVxDT x), fun s => ⟨_, rfl, writeReg_spec s x s.DT⟩⟩

/-- Settles O52: the timer is assigned, and the end of the step counts the assigned value down. -/
theorem setsTimers : Obligations.SetsTimers := by
  unfold Obligations.SetsTimers
  refine fun x => ⟨decodeWord_encode (.ldDTVx x), decodeWord_encode (.ldSTVx x), fun s => ⟨?DT, ?ST⟩⟩
  case DT =>
    refine ⟨_, rfl, rfl, pcPlus_advance rfl 2, keepsAllBut_advance (keepsAllBut_DT s _) 2,
      fun hrun hc => ?_, fun hc => ?_⟩
    · exact (State.finishStep_timers_of_perStep (s := { s with DT := s.getV x }.advance 2) hrun hc).1
    · exact (State.finishStep_timers_of_kept (s := { s with DT := s.getV x }.advance 2) (.inr hc)).1
  case ST =>
    refine ⟨_, rfl, rfl, pcPlus_advance rfl 2, keepsAllBut_advance (keepsAllBut_ST s _) 2,
      fun hrun hc => ?_, fun hc => ?_⟩
    · exact (State.finishStep_timers_of_perStep (s := { s with ST := s.getV x }.advance 2) hrun hc).2
    · exact (State.finishStep_timers_of_kept (s := { s with ST := s.getV x }.advance 2) (.inr hc)).2

/-- Two keys that are each the lowest pressed one are the same key. -/
theorem lowest_pressed_unique {s : State} {j k : Nibble} (hj : s.getKey j = true) (hk : s.getKey k = true)
    (hjlow : ∀ i : Nibble, i.toNat < j.toNat → s.getKey i = false)
    (hklow : ∀ i : Nibble, i.toNat < k.toNat → s.getKey i = false) : j = k := by
  apply BitVec.eq_of_toNat_eq
  have h1 : ¬ j.toNat < k.toNat := fun h => Bool.false_ne_true ((hklow j h).symm.trans hj)
  have h2 : ¬ k.toNat < j.toNat := fun h => Bool.false_ne_true ((hjlow k h).symm.trans hk)
  omega

/-- Settles O51: the inversion lemma of the key wait, whose lowest key is the one given. -/
theorem keyWaitTakesLowest : Obligations.KeyWaitTakesLowest := by
  unfold Obligations.KeyWaitTakesLowest
  refine fun x s => ⟨fun hnone => ?wait, fun k hk hlow => ?take⟩
  case wait =>
    obtain ⟨h, -⟩ | ⟨k, -, hk, -⟩ := execLdVxK_cases x s
    · exact h
    · exact absurd ((hnone k).symm.trans hk) Bool.false_ne_true
  case take =>
    obtain ⟨-, hnone⟩ | ⟨j, h, hj, hjlow⟩ := execLdVxK_cases x s
    · exact absurd ((hnone k).symm.trans hk) Bool.false_ne_true
    · obtain rfl := lowest_pressed_unique hj hk hjlow hlow
      refine ⟨_, _, h, ?_, writeReg_spec s x _⟩
      rw [BitVec.toNat_ofNat]
      omega

end Sys2Proof.Machine
end

section
/-! The display (41_display.md): CLS, and DRW by the laws of drawing a sprite. -/

namespace Sys2Proof.Machine

open Sys2Proof.Safety

/-- Settles O24: every cell of the cleared grid is 0. -/
theorem clsClearsGrid : Obligations.ClsClearsGrid := by
  unfold Obligations.ClsClearsGrid
  exact ⟨decodeWord_encode .cls, fun s => ⟨_, rfl, Grid.cell_clear, rfl, pcPlus_advance rfl 2,
    keepsAllBut_advance (keepsAllBut_display s _ _) 2⟩⟩

/-! ### The cells a sprite covers -/

theorem State.spriteRows_length (s : State) (n : Nibble) : (s.spriteRows n).length = n.toNat := by
  simp [State.spriteRows]

/-- The rows' cells of `drawRows_spec` are the cells of `SpriteCovers`. -/
theorem rowsHit_spriteRows_iff (s : State) (x y n : Nibble) (c r : Nat) :
    RowsHit (s.spriteRows n) (s.getV x).toNat (s.getV y).toNat c r ↔ SpriteCovers s x y n c r := by
  have hrow (dr : Nat) (h : dr < (s.spriteRows n).length) :
      (s.spriteRows n)[dr] = s.readByte (s.I.toNat + dr) := by simp [State.spriteRows]
  constructor
  · rintro ⟨dr, hdr, dc, hdc, hcol, hrowpos, hbit⟩
    rw [hrow] at hbit
    exact ⟨dc, hdc, dr, s.spriteRows_length n ▸ hdr, hcol, hrowpos, hbit⟩
  · rintro ⟨dc, hdc, dr, hdr, hcol, hrowpos, hbit⟩
    have hdr' : dr < (s.spriteRows n).length := (s.spriteRows_length n).symm ▸ hdr
    refine ⟨dr, hdr', dc, hdc, hcol, hrowpos, ?_⟩
    rw [hrow]
    exact hbit

/-- The sprite is drawn from Vx, Vy, I and memory only. -/
theorem spriteCovers_congr {s t : State} {x y : Nibble} (hx : t.getV x = s.getV x) (hy : t.getV y = s.getV y)
    (hI : t.I = s.I) (hmem : ∀ a, t.readByte a = s.readByte a) (n : Nibble) (c r : Nat) :
    SpriteCovers t x y n c r ↔ SpriteCovers s x y n c r := by
  simp only [SpriteCovers, hx, hy, hI, hmem]

/-- The sprite covers a set cell: the collision of R84. -/
def Collides (s : State) (x y n : Nibble) : Prop :=
  ∃ c < 64, ∃ r < 32, s.grid.cell c r = true ∧ SpriteCovers s x y n c r

theorem execState_drw_cell (x y n : Nibble) (s : State) {c r : Nat} (hc : c < 64) (hr : r < 32) :
    (SpriteCovers s x y n c r → (execState (.drw x y n) s).grid.cell c r = !s.grid.cell c r) ∧
    (¬ SpriteCovers s x y n c r → (execState (.drw x y n) s).grid.cell c r = s.grid.cell c r) := by
  have hlen : (s.spriteRows n).length ≤ 32 := by rw [State.spriteRows_length]; omega
  obtain ⟨hcells, -⟩ := drawRows_spec (s.spriteRows n) (s.grid, false) (s.getV x).toNat (s.getV y).toNat hlen
  rw [← rowsHit_spriteRows_iff]
  exact hcells c hc r hr

/-- The collision flag that the drawing collects, as the byte VF then holds. -/
theorem execState_drw_VF (x y n : Nibble) (s : State) :
    (Collides s x y n → (execState (.drw x y n) s).getV 0xF = 1) ∧
    (¬ Collides s x y n → (execState (.drw x y n) s).getV 0xF = 0) := by
  have hlen : (s.spriteRows n).length ≤ 32 := by rw [State.spriteRows_length]; omega
  obtain ⟨-, hflag⟩ := drawRows_spec (s.spriteRows n) (s.grid, false) (s.getV x).toNat (s.getV y).toNat hlen
  simp only [rowsHit_spriteRows_iff, Bool.false_eq_true, false_or] at hflag
  have hVF : (execState (.drw x y n) s).getV 0xF =
      flagByte (drawRows (s.grid, false) (s.getV x).toNat (s.getV y).toNat (s.spriteRows n)).2 :=
    (State.getV_setVF _ 0xF _).trans (if_pos rfl)
  rw [hVF]
  refine ⟨fun h => ?_, fun h => ?_⟩
  · rw [hflag.mpr h]
    rfl
  · rw [Bool.eq_false_of_not_eq_true fun h' => h (hflag.mp h')]
    rfl

/-- Settles O25: the cells and the flag by the laws of drawing, the rest by the frames. -/
theorem drwXorsSprite : Obligations.DrwXorsSprite := by
  unfold Obligations.DrwXorsSprite
  intro x y n s
  obtain ⟨hset, hclear⟩ := execState_drw_VF x y n s
  refine ⟨_, exec_next _ s, fun c hc r hr => execState_drw_cell x y n s hc hr, hset, hclear, fun r hr => ?other, rfl,
    pcPlus_advance rfl 2, ?frame⟩
  case other => exact execState_getV (.drw x y n) s r (by simpa [writesReg] using hr)
  case frame => exact (execState_keepsAllBut (.drw x y n) s).mono (by simp [writes])

/-! ### Drawing a sprite twice -/

/-- A cell toggled twice or not at all is as before. -/
theorem drw_twice_cell {x y n : Nibble} {s t : State} (ht : execState (.drw x y n) s = t)
    (hcovers : ∀ c r, SpriteCovers t x y n c r ↔ SpriteCovers s x y n c r) {c r : Nat} (hc : c < 64) (hr : r < 32) :
    (execState (.drw x y n) t).grid.cell c r = s.grid.cell c r := by
  obtain ⟨hflip, hkeep⟩ := execState_drw_cell x y n s hc hr
  obtain ⟨hflip', hkeep'⟩ := execState_drw_cell x y n t hc hr
  rw [hcovers] at hflip' hkeep'
  rw [ht] at hflip hkeep
  by_cases h : SpriteCovers s x y n c r
  · rw [hflip' h, hflip h, Bool.not_not]
  · rw [hkeep' h, hkeep h]

theorem exists_getLsbD_of_ne_zero (b : Byte) (h : b ≠ 0) : ∃ k < 8, b.getLsbD k = true := by
  by_contra hno
  refine h (BitVec.eq_of_getLsbD_eq fun k hk => ?_)
  rw [Bool.eq_false_of_not_eq_true fun hbit => hno ⟨k, hk, hbit⟩]
  exact BitVec.getLsbD_zero.symm

/-- A sprite with a nonzero byte covers a cell. -/
theorem exists_spriteCovers {s : State} {n : Nibble} (x y : Nibble)
    (h : ∃ k < n.toNat, s.readByte (s.I.toNat + k) ≠ 0) : ∃ c < 64, ∃ r < 32, SpriteCovers s x y n c r := by
  obtain ⟨dr, hdr, hbyte⟩ := h
  obtain ⟨k, hk, hbit⟩ := exists_getLsbD_of_ne_zero _ hbyte
  refine ⟨((s.getV x).toNat + (7 - k)) % 64, Nat.mod_lt _ (by decide), ((s.getV y).toNat + dr) % 32,
    Nat.mod_lt _ (by decide), 7 - k, by omega, dr, hdr, rfl, rfl, ?_⟩
  rwa [show 7 - (7 - k) = k by omega]

/-- Settles O26: the second drawing covers the same cells, so that each is toggled twice or never; on a clear grid the
first drawing meets no set cell and the second meets those the first has set. -/
theorem drwTwiceRestoresGrid : Obligations.DrwTwiceRestoresGrid := by
  unfold Obligations.DrwTwiceRestoresGrid
  intro x y n s t u hst htu hx hy
  have ht := execState_of_exec hst
  obtain rfl := execState_of_exec htu
  have hkeeps : KeepsAllBut (writes (.drw x y n)) s t := ht ▸ execState_keepsAllBut (.drw x y n) s
  have hcovers := spriteCovers_congr hx hy (hkeeps .I (by simp [writes])) (hkeeps .mem (by simp [writes])) n
  refine ⟨Grid.ext_cell _ _ fun c hc r hr => drw_twice_cell ht hcovers hc hr, fun hclear hbyte => ⟨?first, ?second⟩⟩
  case first =>
    obtain ⟨-, hVF⟩ := execState_drw_VF x y n s
    rw [← ht]
    refine hVF ?_
    rintro ⟨c, -, r, -, hcell, -⟩
    exact Bool.false_ne_true ((hclear c r).symm.trans hcell)
  case second =>
    obtain ⟨c, hc, r, hr, hcover⟩ := exists_spriteCovers x y hbyte
    obtain ⟨hVF, -⟩ := execState_drw_VF x y n t
    obtain ⟨hflip, -⟩ := execState_drw_cell x y n s hc hr
    refine hVF ⟨c, hc, r, hr, ?_, (hcovers c r).mpr hcover⟩
    rw [← ht, hflip hcover, hclear, Bool.not_false]

end Sys2Proof.Machine
end

section
/-! Memory (20_memory.md, 44_index_memory.md): the bytes that FX33, FX55 and the host's load store, that FX65 loads, and
that a step fetches. -/

namespace Sys2Proof.Machine

open Sys2Proof.Safety

/-! ### The stored blocks -/

theorem State.regBlock_length (s : State) (x : Nibble) : (s.regBlock x).length = x.toNat + 1 := by
  rw [State.regBlock, List.length_take, Vector.length_toList]
  omega

theorem State.getElem_regBlock (s : State) (x k : Nibble) (h : k.toNat < (s.regBlock x).length) :
    (s.regBlock x)[k.toNat] = s.getV k := by
  simp [State.regBlock, State.getV]

theorem bcdDigits_length (v : Byte) : (bcdDigits v).length = 3 := rfl

/-- The digits by place: the k-th digit counts the hundreds, tens or ones. -/
theorem getElem_bcdDigits_toNat (v : Byte) (k : Nat) (h : k < (bcdDigits v).length) :
    (bcdDigits v)[k].toNat = v.toNat / 10 ^ (2 - k) % 10 := by
  have := v.isLt
  rw [bcdDigits_length] at h
  interval_cases k <;> simp [bcdDigits] <;> omega

/-- Of a block stored from I on, at most 4096 bytes long, the k-th byte reads back at I + k. -/
theorem readByte_advance_storeBytes {s : State} (hwf : Memory.wf s.params.font s.mem) (a k : Nat) {l : List Byte}
    (hlen : l.length ≤ 0x1000) (hk : k < l.length) : ((s.storeBytes a l).advance 2).readByte (a + k) = l[k] := by
  rw [State.readByte_advance, s.readByte_storeBytes a k l hwf hlen hk]

theorem readByte_execLdMemVx {s : State} (hwf : Memory.wf s.params.font s.mem) {x k : Nibble} (hk : k.toNat ≤ x.toNat) :
    (execState (.ldMemVx x) s).readByte (s.I.toNat + k.toNat) = s.getV k := by
  have hlt : k.toNat < (s.regBlock x).length := by rw [s.regBlock_length]; omega
  rw [← s.getElem_regBlock x k hlt]
  exact readByte_advance_storeBytes hwf _ _ (by rw [s.regBlock_length]; omega) hlt

theorem readByte_execLdBVx_toNat {s : State} (hwf : Memory.wf s.params.font s.mem) (x : Nibble) {k : Nat} (hk : k < 3) :
    ((execState (.ldBVx x) s).readByte (s.I.toNat + k)).toNat = (s.getV x).toNat / 10 ^ (2 - k) % 10 := by
  rw [← getElem_bcdDigits_toNat _ k hk]
  exact congrArg BitVec.toNat (readByte_advance_storeBytes hwf _ _ (by simp [bcdDigits]) hk)

/-! ### Which bytes an instruction writes -/

theorem readByte_storeBytes_of_outsideFromI {s : State} (hwf : Memory.wf s.params.font s.mem) {l : List Byte}
    {n a : Nat} (hlen : l.length = n) (hout : OutsideFromI s n a) :
    ((s.storeBytes s.I.toNat l).advance 2).readByte a = s.readByte a := by
  subst hlen
  rw [State.readByte_advance, s.readByte_storeBytes_of_outside _ _ l hwf hout]

theorem execState_readByte (i : Instr) {s : State} (hwf : Memory.wf s.params.font s.mem) {a : Nat}
    (hout : OutsideFromI s (storedBytes i) a) : (execState i s).readByte a = s.readByte a := by
  cases i with
  | ldBVx x => exact readByte_storeBytes_of_outsideFromI hwf (bcdDigits_length _) hout
  | ldMemVx x => exact readByte_storeBytes_of_outsideFromI hwf (s.regBlock_length x) hout
  | _ => exact execState_keepsAllBut _ s .mem (by simp [writes]) a

/-- Settles O23: `execState_readByte`. -/
theorem instructionsWriteOnlyTheirBytes : Obligations.InstructionsWriteOnlyTheirBytes := by
  unfold Obligations.InstructionsWriteOnlyTheirBytes
  intro i s t a hwf hexec hout
  rw [← execState_of_exec hexec]
  exact execState_readByte i hwf hout

/-! ### The index register and the memory instructions -/

theorem flagByte_toNat (b : Bool) : (flagByte b).toNat = if b then 1 else 0 := by
  cases b <;> rfl

/-- Settles O42: `setI` reduces the address; VF is the flag, written before I. -/
theorem indexLoadsAndAdds : Obligations.IndexLoadsAndAdds := by
  unfold Obligations.IndexLoadsAndAdds
  refine ⟨fun nnn => ⟨decodeWord_encode (.ldI nnn), fun s => ?load⟩,
    fun x => ⟨decodeWord_encode (.addIVx x), fun s => ?add⟩⟩
  case load =>
    refine ⟨_, rfl, ?_, pcPlus_advance rfl 2, keepsAllBut_advance (keepsAllBut_setI s _) 2⟩
    exact (addr12_toNat _).trans (Nat.mod_eq_of_lt nnn.isLt)
  case add =>
    refine ⟨_, rfl, addr12_toNat _, ?flag, fun r hr => ?other, pcPlus_advance rfl 2, ?frame⟩
    case flag =>
      have hVF := (s.getV_setVF 0xF (indexOverflowFlag s.I (s.getV x))).trans (if_pos rfl)
      refine (congrArg BitVec.toNat hVF).trans ((flagByte_toNat _).trans ?_)
      simp [indexOverflowFlag]
    case other => exact execState_getV (.addIVx x) s r (by simpa [writesReg] using hr)
    case frame => exact (execState_keepsAllBut (.addIVx x) s).mono (by simp [writes])

/-- Settles O43: the address is at most 0x050 + 5 * 255, below 0x1000. -/
theorem glyphAddressIsBasePlusFive : Obligations.GlyphAddressIsBasePlusFive := by
  unfold Obligations.GlyphAddressIsBasePlusFive
  intro x s
  refine ⟨_, rfl, ?_, pcPlus_advance rfl 2, keepsAllBut_advance (keepsAllBut_setI s _) 2⟩
  have := (s.getV x).isLt
  exact (addr12_toNat _).trans (Nat.mod_eq_of_lt (by rw [glyphAddress]; omega))

/-- Settles O44: the digits read back where they were stored, and the rest by the frames. -/
theorem bcdStoresDigits : Obligations.BcdStoresDigits := by
  unfold Obligations.BcdStoresDigits
  refine fun x => ⟨decodeWord_encode (.ldBVx x), fun s hwf => ⟨_, exec_next _ s, ?hundreds, ?tens, ?ones,
    fun a hout => execState_readByte (.ldBVx x) hwf hout, pcPlus_advance (s.storeBytes_pc _ _) 2,
    keepsAllBut_advance (keepsAllBut_storeBytes s _ _) 2⟩⟩
  case hundreds =>
    have := (s.getV x).isLt
    have h := readByte_execLdBVx_toNat hwf x (k := 0) (by decide)
    rw [Nat.add_zero] at h
    omega
  case tens => exact readByte_execLdBVx_toNat hwf x (k := 1) (by decide)
  case ones => simpa using readByte_execLdBVx_toNat hwf x (k := 2) (by decide)

/-- Settles O45: the registers read back where they were stored, and the rest by the frames. -/
theorem dumpStoresRegisters : Obligations.DumpStoresRegisters := by
  unfold Obligations.DumpStoresRegisters
  exact fun x => ⟨decodeWord_encode (.ldMemVx x), fun s hwf => ⟨_, exec_next _ s,
    fun k hk => readByte_execLdMemVx hwf hk, fun a hout => execState_readByte (.ldMemVx x) hwf hout,
    pcPlus_advance (s.storeBytes_pc _ _) 2, keepsAllBut_advance (keepsAllBut_storeBytes s _ _) 2⟩⟩

theorem getV_execLdVxMem (s : State) (x k : Nibble) : (execState (.ldVxMem x) s).getV k =
    if k.toNat < x.toNat + 1 then s.readByte (s.I.toNat + k.toNat) else s.getV k :=
  s.getV_loadRegs s.I.toNat (x.toNat + 1) (by omega) k

/-- Settles O46: each register up to x is the byte at its address. -/
theorem loadReadsRegisters : Obligations.LoadReadsRegisters := by
  unfold Obligations.LoadReadsRegisters
  refine fun x => ⟨decodeWord_encode (.ldVxMem x), fun s => ⟨_, exec_next _ s, fun k hk => ?loaded, fun k hk => ?kept,
    pcPlus_advance (s.loadRegs_pc _ _) 2, keepsAllBut_advance (keepsAllBut_loadRegs s _ _) 2⟩⟩
  case loaded => rw [getV_execLdVxMem, if_pos (by omega)]
  case kept => rw [getV_execLdVxMem, if_neg (by omega)]

/-- Settles O47: FX65 loads the bytes that FX55 stored from the registers. -/
theorem dumpThenLoadRoundTrips : Obligations.DumpThenLoadRoundTrips := by
  unfold Obligations.DumpThenLoadRoundTrips
  intro x s t u v hwf hdump hI hbytes hload
  obtain rfl := execState_of_exec hdump
  obtain rfl := execState_of_exec hload
  refine ⟨fun k hk => ?registers, ?tI, ?vI⟩
  case registers =>
    rw [getV_execLdVxMem, if_pos (by omega), hI, hbytes _ hk, readByte_execLdMemVx hwf hk]
  case tI => exact execState_keepsAllBut (.ldMemVx x) s .I (by simp [writes])
  case vI => exact (execState_keepsAllBut (.ldVxMem x) u .I (by simp [writes])).trans hI

/-! ### The host's load -/

theorem perform_loadProgram_eq (s : State) (bytes : List Byte) :
    (perform (.loadProgram bytes) s).2 = s.storeBytes 0x200 bytes ∧ bytes.length ≤ 3584 ∨
    (perform (.loadProgram bytes) s).2 = s ∧ bytes.length > 3584 := by
  rw [perform]
  by_cases hlen : bytes.length ≤ 3584
  · exact .inl ⟨by rw [s.loadProgram_of_le bytes hlen], hlen⟩
  · exact .inr ⟨by rw [s.loadProgram_of_gt bytes (not_le.mp hlen)], not_le.mp hlen⟩

/-- Settles O57: an image that fits ends at most at 0xFFF, so that no stored address wraps to a kept one. -/
theorem loadProgramWritesOnlyImage : Obligations.LoadProgramWritesOnlyImage := by
  unfold Obligations.LoadProgramWritesOnlyImage
  intro s bytes hwf
  refine ⟨?frame, fun a ha hout => ?outside, rfl⟩
  case frame =>
    obtain ⟨h, -⟩ | ⟨h, -⟩ := perform_loadProgram_eq s bytes <;> rw [h]
    · exact keepsAllBut_storeBytes s _ _
    · exact KeepsAllBut.refl _ s
  case outside =>
    obtain ⟨h, hlen⟩ | ⟨h, -⟩ := perform_loadProgram_eq s bytes <;> rw [h]
    exact s.readByte_storeBytes_of_outside 0x200 a bytes hwf fun k hk => by omega

/-! ### Stored bytes as code -/

/-- Settles O48: a byte is fetched as it reads (`fetchesByte_of_readByte`), and it reads as it was stored. -/
theorem storedCodeIsFetched : Obligations.StoredCodeIsFetched := by
  unfold Obligations.StoredCodeIsFetched
  refine ⟨fun x k s t u hwf hexec hk hu => ?dump, fun x k v s t u hwf hexec hk hv hu => ?bcd,
    fun bytes k s u hk hwf hlen hu => ?load, fun i s t u hrun hdec hexec hstep a => ?step⟩
  case dump =>
    obtain rfl := execState_of_exec hexec
    exact fetchesByte_of_readByte u _ _ (hu.trans (readByte_execLdMemVx hwf hk))
  case bcd =>
    obtain rfl := execState_of_exec hexec
    have hread := (readByte_execLdBVx_toNat hwf x hk).trans hv.symm
    exact fetchesByte_of_readByte u _ _ (hu.trans (BitVec.eq_of_toNat_eq hread))
  case load =>
    obtain ⟨h, -⟩ | ⟨-, hgt⟩ := perform_loadProgram_eq s bytes
    · rw [h] at hu
      exact fetchesByte_of_readByte u _ _ (hu.trans (s.readByte_storeBytes 0x200 k bytes hwf (by omega) hk))
    · omega
  case step =>
    rw [step_of_decodeWord_ok hrun hdec, execState_of_exec hexec] at hstep
    cases hstep
    exact t.readByte_finishStep a

end Sys2Proof.Machine
end
